-- ==== Sys2Proof/Word.lean ====
section
/-! DEFINITION. The word types of `chip8_interpreter_core` (00_scope.md R5, R7): every value is unsigned. -/

namespace Sys2Proof

/-- A general register, a timer or a memory cell: 8 bits (R5 `V_WIDTH`, `TIMER_WIDTH`). -/
abbrev Byte := BitVec 8

/-- An instruction word, `pc`, `I` or a call-stack frame: 16 bits (R5 `PC_WIDTH`, `I_WIDTH`; R70; R28). -/
abbrev Word := BitVec 16

/-- The 12-bit address immediate `nnn` of an instruction word (30_encoding.md R71). -/
abbrev Addr := BitVec 12

/-- A number 0 to 15: a register index `x` or `y`, a sprite height `n`, or a key number (R71, R73, R33). -/
abbrev Nibble := Fin 16

/-- `VF`, which is `V[15]` (00_scope.md R8, 10_state.md R23). -/
abbrev VF : Nibble := 15

end Sys2Proof
end

