-- ==== Sys2Proof/Syntax.lean ====
section
/-! DEFINITION. The 34 instructions of the opcode map (30_encoding.md R74), one constructor a row, in the map's order.
Operands are the fields of R71. `SHR Vx` and `SHL Vx` keep the `y` field they ignore (R78), so that every word
the hardware accepts is one instruction (log entry 15). -/

namespace Sys2Proof

inductive Instr where
  /-- `00E0` CLS -/
  | cls
  /-- `00EE` RET -/
  | ret
  /-- `1nnn` JP addr -/
  | jp (nnn : Addr)
  /-- `2nnn` CALL addr -/
  | call (nnn : Addr)
  /-- `3xnn` SE Vx,byte -/
  | seByte (x : Nibble) (nn : Byte)
  /-- `4xnn` SNE Vx,byte -/
  | sneByte (x : Nibble) (nn : Byte)
  /-- `5xy0` SE Vx,Vy -/
  | seReg (x y : Nibble)
  /-- `9xy0` SNE Vx,Vy -/
  | sneReg (x y : Nibble)
  /-- `6xnn` LD Vx,byte -/
  | ldByte (x : Nibble) (nn : Byte)
  /-- `7xnn` ADD Vx,byte -/
  | addByte (x : Nibble) (nn : Byte)
  /-- `8xy0` LD Vx,Vy -/
  | ldReg (x y : Nibble)
  /-- `8xy1` OR Vx,Vy -/
  | orReg (x y : Nibble)
  /-- `8xy2` AND Vx,Vy -/
  | andReg (x y : Nibble)
  /-- `8xy3` XOR Vx,Vy -/
  | xorReg (x y : Nibble)
  /-- `8xy4` ADD Vx,Vy -/
  | addReg (x y : Nibble)
  /-- `8xy5` SUB Vx,Vy -/
  | subReg (x y : Nibble)
  /-- `8xy6` SHR Vx (`y` ignored) -/
  | shr (x y : Nibble)
  /-- `8xy7` SUBN Vx,Vy -/
  | subnReg (x y : Nibble)
  /-- `8xyE` SHL Vx (`y` ignored) -/
  | shl (x y : Nibble)
  /-- `Annn` LD I,addr -/
  | ldI (nnn : Addr)
  /-- `Bnnn` JP V0,addr -/
  | jpV0 (nnn : Addr)
  /-- `Cxnn` RND Vx,byte -/
  | rnd (x : Nibble) (nn : Byte)
  /-- `Dxyn` DRW Vx,Vy,n -/
  | drw (x y n : Nibble)
  /-- `Ex9E` SKP Vx -/
  | skp (x : Nibble)
  /-- `ExA1` SKNP Vx -/
  | sknp (x : Nibble)
  /-- `Fx07` LD Vx,DT -/
  | ldVxDT (x : Nibble)
  /-- `Fx0A` LD Vx,K -/
  | ldVxK (x : Nibble)
  /-- `Fx15` LD DT,Vx -/
  | ldDTVx (x : Nibble)
  /-- `Fx18` LD ST,Vx -/
  | ldSTVx (x : Nibble)
  /-- `Fx1E` ADD I,Vx -/
  | addIVx (x : Nibble)
  /-- `Fx29` LD F,Vx -/
  | ldFVx (x : Nibble)
  /-- `Fx33` LD B,Vx -/
  | ldBVx (x : Nibble)
  /-- `Fx55` LD [I],Vx -/
  | ldMemVx (x : Nibble)
  /-- `Fx65` LD Vx,[I] -/
  | ldVxMem (x : Nibble)
  deriving DecidableEq, Repr

end Sys2Proof
end

