-- ==== Sys2Proof/Config.lean ====
section
/-! DEFINITION. What is fixed for one machine: the numbers of 00_scope.md R5, the open parameters of R6
(`FONT_BASE`, `FONT_DATA`), and the one free value, the random byte of a tick the host gives no byte for. -/

namespace Sys2Proof

/-- `MEM_SIZE` (R5): memory has the addresses 0x000 to 0xFFF. -/
abbrev memSize : Nat := 4096

/-- `PROG_BASE` (R5): the reset value of `pc` and the first address of a loaded ROM. -/
abbrev progBase : Nat := 0x200

/-- `MAX_ROM_LEN` (R5): 4096 - 0x200 bytes. -/
abbrev maxRomLen : Nat := 3584

/-- `STACK_DEPTH` (R5, R28). -/
abbrev stackDepth : Nat := 16

/-- The parameters the spec leaves OPEN (R6; 10_state.md R24; decisions D10, D11; log entry 3). A machine carries its own
`Config` in its state and no operation changes it, so a statement about every state is a statement about every
legal choice of the two parameters. -/
structure Config where
  /-- `FONT_BASE`, with `0 ≤ FONT_BASE ≤ 0x1B0` (R24). -/
  fontBase : Fin 0x1B1
  /-- `FONT_DATA[0..79]`: glyph `d` at offsets `5 d` to `5 d + 4`, top row first (R24). -/
  fontData : Vector Byte 80
  deriving DecidableEq, Repr

/-- FREE VALUE (42_alu.md R132, decision D16; log entry 4): the random byte of the `k`-th tick that no scheduled `tick rnd`
command supplies. It has no body: nothing can be proved of its value. -/
opaque Config.randomByte : Nat → Byte

end Sys2Proof
end

