-- ==== Sys2Proof/Machine/Font.lean ====
section
/-! DEFINITION. The reset contents of memory (10_state.md R21, R24) and the spec's default font parameters. -/

namespace Sys2Proof.Machine

/-- The default `FONT_DATA` table of R24 (PRESUMED, log entry 3: from general knowledge, decision D11). -/
def defaultFontData : Vector Byte 80 :=
  #v[0xF0, 0x90, 0x90, 0x90, 0xF0,  0x20, 0x60, 0x20, 0x20, 0x70,
     0xF0, 0x10, 0xF0, 0x80, 0xF0,  0xF0, 0x10, 0xF0, 0x10, 0xF0,
     0x90, 0x90, 0xF0, 0x10, 0x10,  0xF0, 0x80, 0xF0, 0x10, 0xF0,
     0xF0, 0x80, 0xF0, 0x90, 0xF0,  0xF0, 0x10, 0x20, 0x40, 0x40,
     0xF0, 0x90, 0xF0, 0x90, 0xF0,  0xF0, 0x90, 0xF0, 0x10, 0xF0,
     0xF0, 0x90, 0xF0, 0x90, 0x90,  0xE0, 0x90, 0xE0, 0x90, 0xE0,
     0xF0, 0x80, 0x80, 0x80, 0xF0,  0xE0, 0x90, 0x90, 0x90, 0xE0,
     0xF0, 0x80, 0xF0, 0x80, 0xF0,  0xF0, 0x80, 0xF0, 0x80, 0x80]

/-- The configuration of `State.reset`: the spec's defaults `FONT_BASE = 0x050` and the table above (PRESUMED, log
entry 3: decisions D10, D11). -/
def defaultConfig : Config := { fontBase := 0x50, fontData := defaultFontData }

/-- What memory holds at an address right after `reset`, and so what an unlisted address reads as: the font byte inside
`FONT_BASE .. FONT_BASE + 79`, else 0x00 (R21, 20_memory.md R51). -/
def resetByte (c : Config) (a : Nat) : Byte :=
  if h : c.fontBase.val ≤ a ∧ a < c.fontBase.val + 80 then c.fontData[a - c.fontBase.val] else 0x00

end Sys2Proof.Machine
end

