-- ==== Sys2Proof/Machine/State.lean ====
section
/-! DEFINITION. The state of the hardware (10_state.md R20 to R35), the host's commands and results
(40_cycle_and_host_operations.md R90), the reasons to stop, and the state after reset. All plain data. -/

namespace Sys2Proof.Machine

/-- Memory as (address, byte) pairs in the canonical form `Memory.wf` of Machine/Ops.lean: an address without a pair reads
as `resetByte`. -/
abbrev Memory := List Host.Cell

/-- The level of a logical key (R33). -/
inductive KeyLevel where
  | up
  | down
  deriving DecidableEq, Repr

/-- The 64 × 32 grid (R32): row `py` is entry `py`, and column `px` is bit `63 - px` of it, so that a row reads left to
right as its bits from the most significant down (log entry 14). -/
abbrev Framebuffer := Vector (BitVec 64) 32

/-- The six causes of a machine fault (60_exceptions.md R173); their codes are `FaultCause.code` of Machine/Ops.lean. -/
inductive FaultCause where
  | stackOverflow
  | stackUnderflow
  | fetchOutOfRange
  | dataOutOfRange
  | keyIndexOutOfRange
  | fontDigitOutOfRange
  deriving DecidableEq, Repr

/-- The contents of the fault latch (R35). -/
structure FaultRecord where
  cause : FaultCause
  /-- `pc0` of the tick that faulted. -/
  fpc : Word
  /-- The instruction word of that tick; 0x0000 for `fetchOutOfRange`. -/
  fword : Word
  deriving DecidableEq, Repr

/-- `UnknownInstruction(w, a)`: the word and the address it was fetched from (60_exceptions.md R171). -/
structure Diagnostic where
  word : Word
  addr : Word
  deriving DecidableEq, Repr

/-- The result of `load_rom` (40_cycle_and_host_operations.md R97). -/
inductive LoadResult where
  | ok
  | oversizedRom
  deriving DecidableEq, Repr

/-- The five operations of the host (40_cycle_and_host_operations.md R90). A key number is 4 bits wide (R96). -/
inductive HostOp where
  | reset
  | loadRom (image : List Byte)
  | setKeyState (k : Nibble) (level : KeyLevel)
  | tick (rnd : Byte)
  | tickTimers
  deriving DecidableEq, Repr

/-- The state. The members from `mem` to `fault` are the spec's (R20); `cfg` is its configuration (00_scope.md R13, log
entry 3); the rest are the model's own fields for the inputs and outputs of the operations (log entries 4, 5, 6). -/
structure State where
  cfg : Config
  /-- R21 -/
  mem : Memory
  /-- R22 -/
  V : Vector Byte 16
  /-- R25 -/
  I : Word
  /-- R26 -/
  pc : Word
  /-- R28: frame `k` (1 to 16) is entry `k - 1`. -/
  stack : Vector Word 16
  /-- R29 -/
  sp : BitVec 8
  /-- R30 -/
  DT : Byte
  /-- R31 -/
  ST : Byte
  /-- R32 -/
  pixels : Framebuffer
  /-- R33 -/
  key : Vector KeyLevel 16
  /-- R34: oldest first. -/
  released : List Nibble
  /-- R35 -/
  fault : Option FaultRecord
  /-- The argument of the tick in progress (R90); 0x00 between ticks. -/
  rnd : Byte
  /-- How many ticks took a free random byte. -/
  draws : Nat
  /-- The result of the last tick (R90). -/
  diag : Option Diagnostic
  /-- The result of the last `load_rom`. -/
  loadResult : Option LoadResult
  /-- The host's waiting operations, the next one first. -/
  schedule : List HostOp
  deriving DecidableEq, Repr

/-- Why a step stops with no next state. The machine's own six faults (R173) are NOT among these: they are next states with
the fault latch written (R176). -/
inductive Fault where
  /-- Raised by `CALL` and `RET` when `sp` is above 16, so that the frame they would use does not exist (R28, R29). No run
  reaches such an `sp` (R36). Safe: the model stops, and claims nothing (log entry 2). -/
  | noSuchFrame (sp : BitVec 8)
  deriving DecidableEq, Repr

/-- Why an instruction has no meaning in the model. -/
inductive Refusal where
  /-- Raised by an arm of `exec` that has no meaning yet; no arm of this model is such. Safe. -/
  | notModelled (mnemonic : String)
  deriving DecidableEq, Repr

/-- The state right after `reset` (70_reset_and_hazards.md R200, 10_state.md section 12). `pc`, `key` and the contents of
`mem` are the source's; the other values are the spec's own decisions D2, D3, D17 (log entry 7). -/
def State.reset : State where
  cfg := defaultConfig
  mem := []
  V := Vector.replicate 16 0x00
  I := 0x0000
  pc := 0x0200
  stack := Vector.replicate 16 0x0000
  sp := 0
  DT := 0x00
  ST := 0x00
  pixels := Vector.replicate 32 0
  key := Vector.replicate 16 .up
  released := []
  fault := none
  rnd := 0x00
  draws := 0
  diag := none
  loadResult := none
  schedule := []

end Sys2Proof.Machine
end

