-- ==== Sys2Proof/Machine/Ops.lean ====
section
/-! DEFINITION. The named operations over memory, registers, the call stack and the fault latch, used by every meaning. -/

namespace Sys2Proof.Machine

/-- What an instruction or a step answers. -/
abbrev Result := Host.Outcome State Fault Refusal

/-! ### Memory (20_memory.md) -/

/-- The byte listed for an address, if one is. -/
def Memory.lookup : Memory → Nat → Option Byte
  | [], _ => none
  | (k, b) :: m, a => if k = a then some b else Memory.lookup m a

/-- Put a pair in its place in rising order, in place of an older pair for the address. -/
def Memory.insert : Memory → Nat → Byte → Memory
  | [], a, b => [(a, b)]
  | (k, x) :: m, a, b =>
    if a < k then (a, b) :: (k, x) :: m else if a = k then (a, b) :: m else (k, x) :: Memory.insert m a b

/-- Drop every pair of an address (a canonical memory has at most one). -/
def Memory.erase : Memory → Nat → Memory
  | [], _ => []
  | (k, x) :: m, a => if a = k then Memory.erase m a else (k, x) :: Memory.erase m a

/-- `MemRead(addr, 1)` (00_scope.md R9) of an address in range. -/
def Memory.read (c : Config) (m : Memory) (a : Nat) : Byte := (Memory.lookup m a).getD (resetByte c a)

/-- `MemWrite(addr, 1, v)` (R9) of an address in range; writing what an unlisted address reads as drops the pair. -/
def Memory.write (c : Config) (m : Memory) (a : Nat) (b : Byte) : Memory :=
  if b = resetByte c a then Memory.erase m a else Memory.insert m a b

/-- Store bytes at rising addresses from `a` on, the first at `a`. -/
def Memory.writeAll (c : Config) (m : Memory) (a : Nat) : List Byte → Memory
  | [] => m
  | b :: bs => Memory.writeAll c (Memory.write c m a b) (a + 1) bs

/-- The canonical form: addresses strictly rising, each in 0x000 to 0xFFF (R50), no pair equal to what its address would
read as without it. -/
abbrev Memory.wf (c : Config) (m : Memory) : Prop :=
  m.Pairwise (fun p q => p.1 < q.1) ∧ ∀ p ∈ m, p.1 < memSize ∧ p.2 ≠ resetByte c p.1

/-- The byte at an address. -/
def State.byteAt (s : State) (a : Nat) : Byte := Memory.read s.cfg s.mem a

/-- `MemRead(addr, 2)` (R9): big-endian, the byte at the lower address is the high byte (20_memory.md R52). -/
def State.wordAt (s : State) (a : Nat) : Word := wordOfBytes (s.byteAt a) (s.byteAt (a + 1))

/-- Store bytes at rising addresses from `a` on. -/
def State.setBytes (s : State) (a : Nat) (bs : List Byte) : State :=
  { s with mem := Memory.writeAll s.cfg s.mem a bs }

/-! ### Registers (10_state.md) -/

/-- Read `V[x]` (R22). -/
def State.reg (s : State) (x : Nibble) : Byte := s.V[x.val]

/-- `V[x] <- b` (R22): no register is hard-wired. -/
def State.setReg (s : State) (x : Nibble) (b : Byte) : State := { s with V := s.V.set x.val b }

/-- Replace the whole register file. -/
def State.setRegs (s : State) (v : Vector Byte 16) : State := { s with V := v }

/-- `I <- w` (R25). -/
def State.setI (s : State) (w : Word) : State := { s with I := w }

/-- `pc <- w` (R26). -/
def State.setPc (s : State) (w : Word) : State := { s with pc := w }

/-- `DT <- b` (R30). -/
def State.setDT (s : State) (b : Byte) : State := { s with DT := b }

/-- `ST <- b` (R31). -/
def State.setST (s : State) (b : Byte) : State := { s with ST := b }

/-- Replace the framebuffer (R32). -/
def State.setPixels (s : State) (fb : Framebuffer) : State := { s with pixels := fb }

/-- `key[k]` (R33). -/
def State.keyLevel (s : State) (k : Nibble) : KeyLevel := s.key[k.val]

/-! ### The call stack (10_state.md R28, R29) -/

/-- Frame `k`, for `1 ≤ k ≤ 16`. -/
def State.frame (s : State) (k : Nat) : Option Word := if k = 0 then none else s.stack[k - 1]?

/-- Write frame `k` and make it the top: `sp <- k; stack[k] <- w`. -/
def State.pushFrame (s : State) (w : Word) : State :=
  { s with sp := s.sp + 1, stack := s.stack.setIfInBounds s.sp.toNat w }

/-- `sp <- sp - 1`: the frame above keeps its value (R28). -/
def State.popFrame (s : State) : State := { s with sp := s.sp - 1 }

/-! ### Machine faults (60_exceptions.md R173, R176, R177) -/

/-- The code of a cause (R173); 0 is not used. -/
def FaultCause.code : FaultCause → Nat
  | .stackOverflow => 1
  | .stackUnderflow => 2
  | .fetchOutOfRange => 3
  | .dataOutOfRange => 4
  | .keyIndexOutOfRange => 5
  | .fontDigitOutOfRange => 6

/-- Fault entry (R176) of instruction `i`, called before the meaning has written anything: the only write of the tick so
far is the fetch's advance of `pc`, which is taken back; then the latch takes the cause, `pc0` and the word. The machine goes
nowhere: it is stopped (R101). There is no return from a fault (R177): only `State.resetAll` of Machine/Cycle.lean clears it. -/
def raise (cause : FaultCause) (i : Instr) (s : State) : Result :=
  .next { s with pc := s.pc - 2, fault := some { cause := cause, fpc := s.pc - 2, fword := encode i } }

/-- The range check of a data instruction (20_memory.md R56): `highest` is the highest address it would access, checked
before any byte is read or written. -/
def checkedData (highest : Nat) (i : Instr) (s : State) (done : State) : Result :=
  if highest > 0xFFF then raise .dataOutOfRange i s else .next done

/-- Skip the next instruction word if the condition holds: 2 is added to the post-fetch `pc` (41_flow.md R110). -/
def State.skipIf (s : State) (cond : Bool) : State := if cond then s.setPc (s.pc + 2) else s

end Sys2Proof.Machine
end

