-- ==== Sys2Proof/Machine/Operands.lean ====
section
/-! DEFINITION. The operand forms of 30_encoding.md R73 that need more than a register read: zero extension, a register value
as an index, the effective address, the sprite origin. -/

namespace Sys2Proof.Machine

/-- `zext_16(nnn)` (R73). -/
def addrToWord (nnn : Addr) : Word := nnn.setWidth 16

/-- `zext_16(V[x])`. -/
def byteToWord (b : Byte) : Word := b.setWidth 16

/-- A register value as an index into 16 things, a key number (45_keypad_timers.md R160) or a hex digit
(43_index_memory.md R142): none above 0x0F. -/
def nibbleOfByte (b : Byte) : Option Nibble := if h : b.toNat < 16 then some ⟨b.toNat, h⟩ else none

/-- `EA = I + offset`, an unbounded natural number: no wrap-around, no mask (43_index_memory.md R146). -/
def State.effectiveAddress (s : State) (offset : Nat) : Nat := s.I.toNat + offset

/-- The origin of a sprite: column `V[x] mod 64`, row `V[y] mod 32` (44_display.md R152, R153). -/
def State.spriteOrigin (s : State) (x y : Nibble) : Nat × Nat := ((s.reg x).toNat % 64, (s.reg y).toNat % 32)

/-- The values of `V0` to `Vx`, in order (43_index_memory.md R144). -/
def State.regsUpTo (s : State) (x : Nibble) : List Byte := s.V.toList.take (x.val + 1)

/-- The register file with `V[i]` read from `I + i` for `i` in 0 to `x`, and the others as they are (43_index_memory.md
R145). -/
def State.regsFromMemory (s : State) (x : Nibble) : Vector Byte 16 :=
  Vector.ofFn fun i : Nibble => if i.val ≤ x.val then s.byteAt (s.effectiveAddress i.val) else s.reg i

/-- The three decimal digits of a value: hundreds, tens, ones (43_index_memory.md R143). -/
def decimalDigits (v : Byte) : List Byte :=
  [BitVec.ofNat 8 (v.toNat / 100), BitVec.ofNat 8 (v.toNat / 10 % 10), BitVec.ofNat 8 (v.toNat % 10)]

end Sys2Proof.Machine
end

