-- ==== Sys2Proof/Machine/Flags.lean ====
section
/-! DEFINITION. Every value `VF` is written with as a flag (10_state.md R23) and the order of result and flag (42_alu.md
R120). The collision flag of `DRW` is `collides` of Machine/Display.lean. -/

namespace Sys2Proof.Machine

/-- A flag in `VF`: 1 or 0. -/
def flagByte (b : Bool) : Byte := if b then 1 else 0

/-- Carry out of an addition: the sum is above 255 (42_alu.md R127). -/
def carryOut (a b : Byte) : Bool := decide (a.toNat + b.toNat > 255)

/-- No borrow in `a - b`: `a ≥ b`, equality included (42_alu.md R128, R130, R133). -/
def noBorrow (a b : Byte) : Bool := decide (a.toNat ≥ b.toNat)

/-- The bit a shift right by one moves out (42_alu.md R129). -/
def lowBit (a : Byte) : Bool := a.getLsbD 0

/-- The bit a shift left by one moves out (42_alu.md R131). -/
def highBit (a : Byte) : Bool := a.getLsbD 7

/-- Write the result to `V[x]` and LAST the flag to `VF`, so that for `x = F` the flag remains (42_alu.md R120, decision
D12, log entry 9). -/
def State.setResultFlag (s : State) (x : Nibble) (result : Byte) (flag : Bool) : State :=
  (s.setReg x result).setReg VF (flagByte flag)

end Sys2Proof.Machine
end

