-- ==== Sys2Proof/Machine/Alu.lean ====
section
/-! DEFINITION. Register load, arithmetic, logic, shift and random (42_alu.md R120 to R133). Byte addition and subtraction
are modulo 2^8 (R133). Every operand is read before anything is written (R120). -/

namespace Sys2Proof.Machine

/-- `LD Vx,byte` (R121). -/
def execLdByte (x : Nibble) (nn : Byte) (s : State) : Result := .next (s.setReg x nn)

/-- `ADD Vx,byte` (R122): no flag, whatever the sum. -/
def execAddByte (x : Nibble) (nn : Byte) (s : State) : Result := .next (s.setReg x (s.reg x + nn))

/-- `LD Vx,Vy` (R123). -/
def execLdReg (x y : Nibble) (s : State) : Result := .next (s.setReg x (s.reg y))

/-- `OR Vx,Vy` (R124): `VF` is not reset. -/
def execOrReg (x y : Nibble) (s : State) : Result := .next (s.setReg x (s.reg x ||| s.reg y))

/-- `AND Vx,Vy` (R125): `VF` is not reset. -/
def execAndReg (x y : Nibble) (s : State) : Result := .next (s.setReg x (s.reg x &&& s.reg y))

/-- `XOR Vx,Vy` (R126): `VF` is not reset. -/
def execXorReg (x y : Nibble) (s : State) : Result := .next (s.setReg x (s.reg x ^^^ s.reg y))

/-- `ADD Vx,Vy` (R127). -/
def execAddReg (x y : Nibble) (s : State) : Result :=
  .next (s.setResultFlag x (s.reg x + s.reg y) (carryOut (s.reg x) (s.reg y)))

/-- `SUB Vx,Vy` (R128). -/
def execSubReg (x y : Nibble) (s : State) : Result :=
  .next (s.setResultFlag x (s.reg x - s.reg y) (noBorrow (s.reg x) (s.reg y)))

/-- `SHR Vx` (R129): the source is `V[x]`; the `y` field is ignored (30_encoding.md R78). -/
def execShr (x _y : Nibble) (s : State) : Result :=
  .next (s.setResultFlag x (s.reg x >>> 1) (lowBit (s.reg x)))

/-- `SUBN Vx,Vy` (R130). -/
def execSubnReg (x y : Nibble) (s : State) : Result :=
  .next (s.setResultFlag x (s.reg y - s.reg x) (noBorrow (s.reg y) (s.reg x)))

/-- `SHL Vx` (R131): the source is `V[x]`; the `y` field is ignored (30_encoding.md R78). -/
def execShl (x _y : Nibble) (s : State) : Result :=
  .next (s.setResultFlag x (s.reg x <<< 1) (highBit (s.reg x)))

/-- `RND Vx,byte` (R132): `rnd` is the argument of this tick. -/
def execRnd (x : Nibble) (nn : Byte) (s : State) : Result := .next (s.setReg x (s.rnd &&& nn))

end Sys2Proof.Machine
end

