-- ==== Sys2Proof/Machine/Display.lean ====
section
/-! DEFINITION. The framebuffer and its two instructions (44_display.md R151 to R156). `DRW` is the form of R156 (g): the
clipped sprite as a mask over the whole grid, `old ^ mask`, collision when `old & mask` has a 1 bit. The pseudocode loop of
R152 is `drawLoop`; nothing runs it, and an obligation says that it draws the same. -/

namespace Sys2Proof.Machine

/-- `pixel(px, py)` (10_state.md R32); off outside the grid. -/
def Framebuffer.pixel (fb : Framebuffer) (px py : Nat) : Bool :=
  if h : py < 32 then (fb[py]).getMsbD px else false

/-- All pixels off (R151). -/
def blankScreen : Framebuffer := Vector.replicate 32 0

/-- A sprite row byte with its bit 7 at column `ox`, its bit 0 at `ox + 7`; columns past 63 fall off (R153). -/
def spriteRow (b : Byte) (ox : Nat) : BitVec 64 := (b.setWidth 64 <<< 56) >>> ox

/-- The clipped sprite of `n` rows at `I`, placed at the origin (R156 (g)): rows past 31 are not in the grid (R153). -/
def State.spriteMask (s : State) (ox oy n : Nat) : Framebuffer :=
  Vector.ofFn fun py : Fin 32 =>
    if oy ≤ py.val ∧ py.val < oy + n then spriteRow (s.byteAt (s.effectiveAddress (py.val - oy))) ox else 0

/-- `old ^ mask`. -/
def Framebuffer.flip (fb mask : Framebuffer) : Framebuffer := Vector.ofFn fun py : Fin 32 => fb[py.val] ^^^ mask[py.val]

/-- `old & mask` has a 1 bit: some lit pixel is turned off (R154 (c)). -/
def collides (fb mask : Framebuffer) : Bool :=
  (List.finRange 32).any fun py => fb[py.val] &&& mask[py.val] != 0

/-- `CLS` (R151): `VF` is not written. -/
def execCls (s : State) : Result := .next (s.setPixels blankScreen)

/-- The draw itself, after the range check: coordinates are read before `VF` is written (R154, decision D13). -/
def State.draw (s : State) (x y n : Nibble) : State :=
  let mask := s.spriteMask (s.spriteOrigin x y).1 (s.spriteOrigin x y).2 n.val
  (s.setPixels (s.pixels.flip mask)).setReg VF (flagByte (collides s.pixels mask))

/-- `DRW Vx,Vy,n` (R152): the whole range `I .. I + n - 1` is checked first; `n = 0` checks nothing (R155). -/
def execDrw (x y n : Nibble) (s : State) : Result :=
  if n.val = 0 then .next (s.draw x y n)
  else checkedData (s.effectiveAddress (n.val - 1)) (.drw x y n) s (s.draw x y n)

/-! ### The pseudocode of R152, pixel by pixel -/

/-- `pixel(px, py) <- v`, for `px ≤ 63`; nothing outside the grid. -/
def Framebuffer.setPixel (fb : Framebuffer) (px py : Nat) (v : Bool) : Framebuffer :=
  if h : py < 32 then
    fb.set py (if v then fb[py] ||| BitVec.twoPow 64 (63 - px) else fb[py] &&& ~~~BitVec.twoPow 64 (63 - px))
  else fb

/-- One bit of a sprite row: the body of the loop over `c`. The pair is the framebuffer and `VF = 1`. -/
def drawBit (ox py : Nat) (b : Byte) (fv : Framebuffer × Bool) (c : Nat) : Framebuffer × Bool :=
  if ox + c ≤ 63 ∧ b.getLsbD (7 - c) then
    if fv.1.pixel (ox + c) py then (fv.1.setPixel (ox + c) py false, true)
    else (fv.1.setPixel (ox + c) py true, fv.2)
  else fv

/-- One sprite row: the body of the loop over `r`, with the bottom clip. -/
def State.drawLine (s : State) (ox oy : Nat) (fv : Framebuffer × Bool) (r : Nat) : Framebuffer × Bool :=
  if oy + r > 31 then fv
  else (List.range 8).foldl (drawBit ox (oy + r) (s.byteAt (s.effectiveAddress r))) fv

/-- The loop of R152 from `VF <- 0` on. -/
def State.drawLoop (s : State) (ox oy n : Nat) : Framebuffer × Bool :=
  (List.range n).foldl (s.drawLine ox oy) (s.pixels, false)

end Sys2Proof.Machine
end

