-- ==== Sys2Proof/Machine/Flow.lean ====
section
/-! DEFINITION. Control transfer (41_flow.md R110 to R118). When a meaning runs, `pc` already holds the post-fetch value
`pc0 + 2` (40_cycle_and_host_operations.md R93). -/

namespace Sys2Proof.Machine

/-- `RET` (R111). An `sp` above 16 has no frame (log entry 2). -/
def execRet (s : State) : Result :=
  if s.sp = 0 then raise .stackUnderflow .ret s
  else
    match s.frame s.sp.toNat with
    | some ra => .next (s.popFrame.setPc ra)
    | none => .fault (.noSuchFrame s.sp)

/-- `JP addr` (R112). -/
def execJp (nnn : Addr) (s : State) : Result := .next (s.setPc (addrToWord nnn))

/-- `CALL addr` (R113): the saved address is the post-fetch `pc`. An `sp` above 16 has no next frame (log entry 2). -/
def execCall (nnn : Addr) (s : State) : Result :=
  if s.sp = 16 then raise .stackOverflow (.call nnn) s
  else if s.sp.toNat < stackDepth then .next ((s.pushFrame s.pc).setPc (addrToWord nnn))
  else .fault (.noSuchFrame s.sp)

/-- `SE Vx,byte` (R114). -/
def execSeByte (x : Nibble) (nn : Byte) (s : State) : Result := .next (s.skipIf (s.reg x == nn))

/-- `SNE Vx,byte` (R115). -/
def execSneByte (x : Nibble) (nn : Byte) (s : State) : Result := .next (s.skipIf (s.reg x != nn))

/-- `SE Vx,Vy` (R116). -/
def execSeReg (x y : Nibble) (s : State) : Result := .next (s.skipIf (s.reg x == s.reg y))

/-- `SNE Vx,Vy` (R117). -/
def execSneReg (x y : Nibble) (s : State) : Result := .next (s.skipIf (s.reg x != s.reg y))

/-- `JP V0,addr` (R118): a 16-bit sum, not reduced to 12 bits. -/
def execJpV0 (nnn : Addr) (s : State) : Result := .next (s.setPc (addrToWord nnn + byteToWord (s.reg 0)))

end Sys2Proof.Machine
end

