-- ==== Sys2Proof/Machine/IndexMemory.lean ====
section
/-! DEFINITION. Index register and memory (43_index_memory.md R140 to R146). No load or store modifies `I` (R146). -/

namespace Sys2Proof.Machine

/-- `LD I,addr` (R140). -/
def execLdI (nnn : Addr) (s : State) : Result := .next (s.setI (addrToWord nnn))

/-- `ADD I,Vx` (R141): modulo 2^16 (decision D7), no 12-bit mask, no flag. -/
def execAddIVx (x : Nibble) (s : State) : Result := .next (s.setI (s.I + byteToWord (s.reg x)))

/-- `LD F,Vx` (R142): `FONT_BASE + 5 · V[x]`; a digit above 15 is a fault (decision D9). -/
def execLdFVx (x : Nibble) (s : State) : Result :=
  match nibbleOfByte (s.reg x) with
  | some d => .next (s.setI (BitVec.ofNat 16 (s.cfg.fontBase.val + 5 * d.val)))
  | none => raise .fontDigitOutOfRange (.ldFVx x) s

/-- `LD B,Vx` (R143). -/
def execLdBVx (x : Nibble) (s : State) : Result :=
  checkedData (s.effectiveAddress 2) (.ldBVx x) s (s.setBytes (s.effectiveAddress 0) (decimalDigits (s.reg x)))

/-- `LD [I],Vx` (R144). -/
def execLdMemVx (x : Nibble) (s : State) : Result :=
  checkedData (s.effectiveAddress x.val) (.ldMemVx x) s (s.setBytes (s.effectiveAddress 0) (s.regsUpTo x))

/-- `LD Vx,[I]` (R145). -/
def execLdVxMem (x : Nibble) (s : State) : Result :=
  checkedData (s.effectiveAddress x.val) (.ldVxMem x) s (s.setRegs (s.regsFromMemory x))

end Sys2Proof.Machine
end

