-- ==== Sys2Proof/Machine/KeypadTimers.lean ====
section
/-! DEFINITION. Keypad and timer instructions (45_keypad_timers.md R160 to R166). -/

namespace Sys2Proof.Machine

/-- `SKP Vx` (R160): a key number above 15 is a fault (decision D8). -/
def execSkp (x : Nibble) (s : State) : Result :=
  match nibbleOfByte (s.reg x) with
  | some k => .next (s.skipIf (s.keyLevel k == .down))
  | none => raise .keyIndexOutOfRange (.skp x) s

/-- `SKNP Vx` (R161): a key number above 15 is a fault (decision D8). -/
def execSknp (x : Nibble) (s : State) : Result :=
  match nibbleOfByte (s.reg x) with
  | some k => .next (s.skipIf (s.keyLevel k == .up))
  | none => raise .keyIndexOutOfRange (.sknp x) s

/-- `LD Vx,K` (R162): the oldest release (decision D14), or `pc` back to `pc0`. The drain is the end of the tick. -/
def execLdVxK (x : Nibble) (s : State) : Result :=
  match s.released with
  | k :: _ => .next (s.setReg x (BitVec.ofNat 8 k.val))
  | [] => .next (s.setPc (s.pc - 2))

/-- `LD Vx,DT` (R163). -/
def execLdVxDT (x : Nibble) (s : State) : Result := .next (s.setReg x s.DT)

/-- `LD DT,Vx` (R164). -/
def execLdDTVx (x : Nibble) (s : State) : Result := .next (s.setDT (s.reg x))

/-- `LD ST,Vx` (R165). -/
def execLdSTVx (x : Nibble) (s : State) : Result := .next (s.setST (s.reg x))

end Sys2Proof.Machine
end

