-- ==== Sys2Proof/Machine/Cycle.lean ====
section
/-! DEFINITION. The tick (40_cycle_and_host_operations.md R91 to R94, R101) and the other operations and read-outs of the
host (R95 to R98; 70_reset_and_hazards.md R200). -/

namespace Sys2Proof.Machine

/-! ### The tick -/

/-- Fetch (R92): the big-endian word at `pc`, or none when its second byte would lie above 0xFFF. -/
def fetch (s : State) : Option Word := if s.pc.toNat > 0xFFE then none else some (s.wordAt s.pc.toNat)

/-- The state an instruction runs in: `pc` past its word (R91 step 1), the tick's random byte at hand, no diagnostic. -/
def State.beginTick (s : State) (rnd : Byte) : State := { s with pc := s.pc + 2, rnd := rnd, diag := none }

/-- The end of a tick: `released` is drained (R94), unless the tick faulted (R91); the random byte is gone. -/
def State.endTick (s : State) : State :=
  { s with rnd := 0x00, released := if s.fault.isSome then s.released else [] }

/-- `endTick` of the next state, if there is one. -/
def finishTick : Result → Result
  | .next s => .next s.endTick
  | .fault r => .fault r
  | .refused r => .refused r

/-- Fault entry of a tick whose fetch is out of range (R92, R176): `fpc = pc0`, `fword = 0x0000`, nothing else changes. -/
def State.fetchFault (s : State) : State :=
  { s with fault := some { cause := .fetchOutOfRange, fpc := s.pc, fword := 0x0000 }, diag := none }

/-- A tick that meets the unknown word `w` (60_exceptions.md R171): `pc` advanced, the diagnostic set, `released` drained. -/
def State.unknownTick (s : State) (rnd : Byte) (w : Word) : State :=
  { s.beginTick rnd with diag := some { word := w, addr := s.pc } }.endTick

/-- `tick(rnd)` (R91). On a faulted machine it changes no state and its `diag` is none (R101). -/
def tick (rnd : Byte) (s : State) : Result :=
  if s.fault.isSome then .next { s with diag := none }
  else
    match fetch s with
    | none => .next s.fetchFault
    | some w =>
      match decodeWord w with
      | .ok i => finishTick (exec i (s.beginTick rnd))
      | .error _ => .next (s.unknownTick rnd w)

/-! ### The other operations -/

/-- One count toward zero (R95). -/
def countDown (b : Byte) : Byte := if b = 0 then 0 else b - 1

/-- `tick_timers` (R95). -/
def State.tickTimers (s : State) : State := { s with DT := countDown s.DT, ST := countDown s.ST }

/-- `set_key_state(k, level)` (R96): a release is recorded on Down to Up only. -/
def State.setKeyState (s : State) (k : Nibble) (level : KeyLevel) : State :=
  { s with
    released := if s.keyLevel k = .down ∧ level = .up then s.released ++ [k] else s.released
    key := s.key.set k.val level }

/-- `load_rom(b)` (R97): an image above 3584 bytes is refused before any byte is copied. -/
def State.loadRom (s : State) (image : List Byte) : State :=
  if image.length > maxRomLen then { s with loadResult := some .oversizedRom }
  else { s.setBytes progBase image with loadResult := some .ok }

/-- `reset` (70_reset_and_hazards.md R200): every piece of state at its reset value. The configuration, the host's waiting
operations and the count of free bytes are not the hardware's state and stay (log entry 12). -/
def State.resetAll (s : State) : State :=
  { State.reset with cfg := s.cfg, schedule := s.schedule, draws := s.draws }

/-- One operation of the host, as one atomic transition (R90, R100). -/
def perform (op : HostOp) (s : State) : Result :=
  match op with
  | .reset => .next s.resetAll
  | .loadRom image => .next (s.loadRom image)
  | .setKeyState k level => .next (s.setKeyState k level)
  | .tick rnd => tick rnd s
  | .tickTimers => .next s.tickTimers

/-! ### The read-outs -/

/-- `display` (R98): the pixel at column `px`, row `py`. -/
def State.display (s : State) (px py : Nat) : Bool := s.pixels.pixel px py

/-- `should_play_sound` (R98): `ST > 0`. -/
def State.shouldPlaySound (s : State) : Bool := decide (s.ST.toNat > 0)

/-! ### Placing a word for the next tick (log entry 13) -/

/-- An operation that fetches. -/
def HostOp.isTick : HostOp → Bool
  | .tick _ => true
  | _ => false

/-- The state made ready to fetch: not faulted (R101), a `pc` that can be fetched from (R92; 0x200 if it could not), the
next operation a tick. -/
def State.readyToFetch (s : State) : State :=
  { s with
    fault := none
    pc := if s.pc.toNat > 0xFFE then 0x0200 else s.pc
    schedule := s.schedule.dropWhile (fun op => !op.isTick) }

end Sys2Proof.Machine
end

