-- ==== Sys2Proof/Machine/Step.lean ====
section
/-! DEFINITION. One step: the next operation of the host; with none waiting, a tick with a free random byte. -/

namespace Sys2Proof.Machine

/-- One step (40_cycle_and_host_operations.md R100; log entries 4 and 5). -/
def step (s : State) : Host.Outcome State Fault Refusal :=
  match s.schedule with
  | op :: rest => perform op { s with schedule := rest }
  | [] => tick (Config.randomByte s.draws) { s with draws := s.draws + 1 }

/-- `s` with the instruction word of `nbits` bits stored where the next step fetches (log entry 13). -/
def State.withFetchWord (s : State) (nbits w : Nat) : State :=
  s.readyToFetch.setBytes s.readyToFetch.pc.toNat (bytesOfWord (BitVec.ofNat 16 (w % 2 ^ nbits)))

end Sys2Proof.Machine
end

