-- ==== Sys2Proof/Safety.lean ====
section
/-! DEFINITION. The terms claims are stated in: the parts of the state and what it means to leave one untouched, the write
and read matrix of 10_state.md R37, the invariant of R36. -/

namespace Sys2Proof.Machine

/-- The pieces of the state a claim can say are unchanged. -/
inductive Piece where
  | cfg
  | mem
  | reg (r : Nibble)
  | I
  | pc
  | stack
  | sp
  | DT
  | ST
  | pixels
  | key
  | released
  | fault
  | rnd
  | draws
  | diag
  | loadResult
  | schedule
  deriving DecidableEq, Repr

/-- The piece is the same in both states: a register by its read, memory by the read of every byte. -/
def Piece.same (s t : State) : Piece → Prop
  | .cfg => t.cfg = s.cfg
  | .mem => ∀ a, t.byteAt a = s.byteAt a
  | .reg r => t.reg r = s.reg r
  | .I => t.I = s.I
  | .pc => t.pc = s.pc
  | .stack => t.stack = s.stack
  | .sp => t.sp = s.sp
  | .DT => t.DT = s.DT
  | .ST => t.ST = s.ST
  | .pixels => t.pixels = s.pixels
  | .key => t.key = s.key
  | .released => t.released = s.released
  | .fault => t.fault = s.fault
  | .rnd => t.rnd = s.rnd
  | .draws => t.draws = s.draws
  | .diag => t.diag = s.diag
  | .loadResult => t.loadResult = s.loadResult
  | .schedule => t.schedule = s.schedule

/-- Everything but the listed parts is the same in `t` as in `s`. -/
def Frame (s t : State) (written : List Piece) : Prop := ∀ p, p ∉ written → p.same s t

/-- Memory outside `lo .. lo + len - 1` is the same in `t` as in `s`. -/
def MemoryOutside (s t : State) (lo len : Nat) : Prop := ∀ a, a < lo ∨ lo + len ≤ a → t.byteAt a = s.byteAt a

/-- R37, the columns marked `w` or `(w)`: the parts the instruction may write when it raises no fault. -/
def mayWrite (i : Instr) (p : Piece) : Bool :=
  match i with
  | .cls => p == .pixels
  | .ret => p == .pc || p == .sp
  | .jp _ | .jpV0 _ | .seByte _ _ | .sneByte _ _ | .seReg _ _ | .sneReg _ _ | .skp _ | .sknp _ => p == .pc
  | .call _ => p == .pc || p == .stack || p == .sp
  | .ldByte x _ | .addByte x _ | .ldReg x _ | .orReg x _ | .andReg x _ | .xorReg x _ | .rnd x _ | .ldVxDT x => p == .reg x
  | .addReg x _ | .subReg x _ | .shr x _ | .subnReg x _ | .shl x _ => p == .reg x || p == .reg VF
  | .ldI _ | .addIVx _ | .ldFVx _ => p == .I
  | .drw _ _ _ => p == .pixels || p == .reg VF
  | .ldVxK x => p == .reg x || p == .pc
  | .ldDTVx _ => p == .DT
  | .ldSTVx _ => p == .ST
  | .ldBVx _ | .ldMemVx _ => p == .mem
  | .ldVxMem x =>
    match p with
    | .reg r => decide (r ≤ x)
    | _ => false

/-- R37, the columns marked `r`, together with what the rules read without a column of that table: `sp` by `CALL` and `RET`
(R111, R113), `FONT_BASE` by `LD F,Vx` (R142), `rnd` by `RND` (R132), `released` by `LD Vx,K` (R162). -/
def mayRead (i : Instr) (p : Piece) : Bool :=
  match i with
  | .cls | .jp _ | .ldByte _ _ | .ldI _ => false
  | .ret => p == .stack || p == .sp
  | .call _ => p == .pc || p == .sp
  | .seByte x _ | .sneByte x _ | .addByte x _ | .shr x _ | .shl x _ | .ldDTVx x | .ldSTVx x => p == .reg x
  | .seReg x y | .sneReg x y | .orReg x y | .andReg x y | .xorReg x y | .addReg x y | .subReg x y | .subnReg x y =>
    p == .reg x || p == .reg y
  | .ldReg _ y => p == .reg y
  | .jpV0 _ => p == .reg 0
  | .rnd _ _ => p == .rnd
  | .drw x y _ => p == .reg x || p == .reg y || p == .I || p == .mem || p == .pixels
  | .skp x | .sknp x => p == .reg x || p == .key
  | .ldVxDT _ => p == .DT
  | .ldVxK _ => p == .released
  | .addIVx x => p == .reg x || p == .I
  | .ldFVx x => p == .reg x || p == .cfg
  | .ldBVx x => p == .reg x || p == .I
  | .ldMemVx x =>
    match p with
    | .reg r => decide (r ≤ x)
    | _ => p == .I
  | .ldVxMem _ => p == .I || p == .mem

/-- What fault entry leaves (60_exceptions.md R176), for instruction `i` run in `s` with `pc` past its word: the latch holds
the cause, `pc0` and the word, `pc` is `pc0` again, and nothing else has changed. -/
def Raised (cause : FaultCause) (i : Instr) (s t : State) : Prop :=
  t.fault = some { cause := cause, fpc := s.pc - 2, fword := encode i } ∧ t.pc = s.pc - 2 ∧ Frame s t [.pc, .fault]

/-- The table of 60_exceptions.md R173, for an instruction fetched in `s`: the code of the fault it raises there, if any. -/
def faultCode (i : Instr) (s : State) : Option Nat :=
  match i with
  | .call _ => if s.sp = 16 then some 1 else none
  | .ret => if s.sp = 0 then some 2 else none
  | .ldBVx _ => if s.I.toNat + 2 > 0xFFF then some 4 else none
  | .ldMemVx x | .ldVxMem x => if s.I.toNat + x.val > 0xFFF then some 4 else none
  | .drw _ _ n => if n.val > 0 ∧ s.I.toNat + n.val - 1 > 0xFFF then some 4 else none
  | .skp x | .sknp x => if (s.reg x).toNat > 0x0F then some 5 else none
  | .ldFVx x => if (s.reg x).toNat > 0x0F then some 6 else none
  | .cls | .jp _ | .jpV0 _ | .seByte _ _ | .sneByte _ _ | .seReg _ _ | .sneReg _ _ | .ldByte _ _ | .addByte _ _
  | .ldReg _ _ | .orReg _ _ | .andReg _ _ | .xorReg _ _ | .addReg _ _ | .subReg _ _ | .shr _ _ | .subnReg _ _ | .shl _ _
  | .ldI _ | .rnd _ _ | .ldVxDT _ | .ldVxK _ | .ldDTVx _ | .ldSTVx _ | .addIVx _ => none

/-- The code of the fault a tick raises in `s`, if any, in the order of 60_exceptions.md R175: the fetch first, then the
instruction's own condition; an unknown word raises none. -/
def tickFaultCode (s : State) : Option Nat :=
  if s.pc.toNat > 0xFFE then some 3
  else
    match decodeWord (s.wordAt s.pc.toNat) with
    | .ok i => faultCode i s
    | .error _ => none

/-- A 1 bit of the sprite of `DRW Vx,Vy,n` lies on the pixel (44_display.md R152, R153): the origin wraps, the body does
not; row `r` is the byte at `I + r`, its bit 7 the leftmost column. -/
def State.spriteOn (s : State) (x y n : Nibble) (px py : Nat) : Prop :=
  let ox := (s.reg x).toNat % 64
  let oy := (s.reg y).toNat % 32
  ox ≤ px ∧ px < ox + 8 ∧ oy ≤ py ∧ py < oy + n.val ∧ (s.byteAt (s.I.toNat + (py - oy))).getLsbD (7 - (px - ox)) = true

/-- The invariant of R36, with what it rests on: memory in canonical form inside its 4096 bytes, `sp` legal, `pc` and every
stored return address no larger than a rule can write them. -/
structure Legal (s : State) : Prop where
  mem_wf : Memory.wf s.cfg s.mem
  sp_le : s.sp.toNat ≤ 16
  pc_le : s.pc.toNat ≤ 0x10FE
  frames_le : ∀ k w, s.frame k = some w → w.toNat ≤ 0x1000

/-- No next operation of the host stands between the state and a tick, and the tick's random byte is `rnd`; `s'` is the
state with that operation taken off. -/
def TickNext (s s' : State) (rnd : Byte) : Prop :=
  (∃ rest, s.schedule = .tick rnd :: rest ∧ s' = { s with schedule := rest }) ∨
  (s.schedule = [] ∧ rnd = Config.randomByte s.draws ∧ s' = { s with draws := s.draws + 1 })

end Sys2Proof.Machine
end

