-- ==== Sys2Proof/Certificates/Slice0/Obligations.lean ====
section
/-! DEFINITION. The statements for the provers. `Frame s t ps` says that everything but the parts `ps` is the same in `t`
as in `s`: every register by its read, memory by the read of every byte. -/

open Sys2Proof Sys2Proof.Machine

/-! ### Encoding (30_encoding.md) -/

/-- Decoding an encoded instruction gives it back, for every instruction and every operand value (the `y` of `SHR` and `SHL`
included, which the model's constructors keep: log entry 15). -/
def Obligations.DecodeOfEncodeIsIdentity : Prop := ∀ i : Instr, decodeWord (encode i) = .ok i

/-- A word that decodes to an instruction is that instruction's encoding: no bit of a word is dropped. For `8xy6` and `8xyE`
with `y` not 0 this holds because the model's constructors keep the `y` that the hardware ignores (30_encoding.md R78, the
spec's decision D27; the model's choice, log entry 15). -/
def Obligations.EncodeOfDecodeIsIdentity : Prop := ∀ (w : Word) (i : Instr), decodeWord w = .ok i → encode i = w

/-- R74: the map has 34 rows and no two of them select one word; a word decodes to an instruction exactly when it selects
that instruction's row of the map (`w & mask = match`); a word that selects no row is an unknown instruction carrying the
word. -/
def Obligations.DecodeSelectsOpcodeRow : Prop :=
  opcodeMap.length = 34 ∧
  ∀ w : Word,
    (∀ j k : Fin opcodeMap.length, opcodeMap[j].selects w = true → opcodeMap[k].selects w = true → j = k) ∧
    (∀ i, decodeWord w = .ok i → i.row ∈ opcodeMap ∧ i.row.selects w = true) ∧
    (∀ r ∈ opcodeMap, r.selects w = true → ∃ i, decodeWord w = .ok i ∧ i.row = r) ∧
    ((∀ r ∈ opcodeMap, r.selects w = false) → decodeWord w = .error (.unknownInstruction w))

/-- The class table of R76: exactly these words are unknown instructions. -/
def Obligations.UnknownWordsByClass : Prop :=
  ∀ w : Word, decodeWord w = .error (.unknownInstruction w) ↔
    (opField w = 0x0 ∧ w ≠ 0x00E0 ∧ w ≠ 0x00EE) ∨
    (opField w = 0x5 ∧ nField w ≠ 0) ∨
    (opField w = 0x8 ∧ nField w ∈ [0x8, 0x9, 0xA, 0xB, 0xC, 0xD, 0xF]) ∨
    (opField w = 0x9 ∧ nField w ≠ 0) ∨
    (opField w = 0xE ∧ nnField w ≠ 0x9E ∧ nnField w ≠ 0xA1) ∨
    (opField w = 0xF ∧ nnField w ∉ [0x07, 0x0A, 0x15, 0x18, 0x1E, 0x29, 0x33, 0x55, 0x65])

/-- Words written out from the patterns of R74, one or more of each family, and unknown ones. -/
def Obligations.SampleWordsDecode : Prop :=
  decodeWord 0x00E0 = .ok .cls ∧ decodeWord 0x00EE = .ok .ret ∧ decodeWord 0x1ABC = .ok (.jp 0xABC) ∧
  decodeWord 0x5120 = .ok (.seReg 1 2) ∧ decodeWord 0x9AB0 = .ok (.sneReg 0xA 0xB) ∧ decodeWord 0x8AB6 = .ok (.shr 0xA 0xB) ∧
  decodeWord 0xC30F = .ok (.rnd 3 0x0F) ∧ decodeWord 0xD12F = .ok (.drw 1 2 15) ∧ decodeWord 0xE19E = .ok (.skp 1) ∧
  decodeWord 0xE0A1 = .ok (.sknp 0) ∧ decodeWord 0xFF65 = .ok (.ldVxMem 0xF) ∧ decodeWord 0xF00A = .ok (.ldVxK 0) ∧
  decodeWord 0x5121 = .error (.unknownInstruction 0x5121) ∧ decodeWord 0x0000 = .error (.unknownInstruction 0x0000)

/-! ### Control transfer (41_flow.md) -/

/-- R112: the target is `nnn` itself; nothing but `pc` changes. -/
def Obligations.JumpGoesToAddress : Prop :=
  ∀ (nnn : Addr) (s : State), decodeWord (formatNNN 0x1 nnn) = .ok (.jp nnn) ∧
    ∃ t, exec (.jp nnn) s = .next t ∧ t.pc.toNat = nnn.toNat ∧ Frame s t [.pc]

/-- R118: the target is the sum `nnn + V0`, never reduced; nothing but `pc` changes. -/
def Obligations.JumpWithOffsetGoesToSum : Prop :=
  ∀ (nnn : Addr) (s : State), decodeWord (formatNNN 0xB nnn) = .ok (.jpV0 nnn) ∧
    ∃ t, exec (.jpV0 nnn) s = .next t ∧ t.pc.toNat = nnn.toNat + (s.reg 0).toNat ∧ Frame s t [.pc]

/-- R114, R115: the immediate skips. -/
def Obligations.ImmediateSkipsTestTheRegister : Prop :=
  ∀ (x : Nibble) (nn : Byte) (s : State),
    (decodeWord (formatXNN 0x3 x nn) = .ok (.seByte x nn) ∧ decodeWord (formatXNN 0x4 x nn) = .ok (.sneByte x nn)) ∧
    (∃ t, exec (.seByte x nn) s = .next t ∧ t.pc = (if s.reg x = nn then s.pc + 2 else s.pc) ∧ Frame s t [.pc]) ∧
    (∃ t, exec (.sneByte x nn) s = .next t ∧ t.pc = (if s.reg x ≠ nn then s.pc + 2 else s.pc) ∧ Frame s t [.pc])

/-- R116, R117: the register skips; `5xyn` and `9xyn` with `n` not 0 are unknown instructions. -/
def Obligations.RegisterSkipsCompare : Prop :=
  ∀ (x y : Nibble) (s : State),
    (decodeWord (formatXYN 0x5 x y 0) = .ok (.seReg x y) ∧ decodeWord (formatXYN 0x9 x y 0) = .ok (.sneReg x y)) ∧
    (∀ n : Nibble, n ≠ 0 →
      decodeWord (formatXYN 0x5 x y n) = .error (.unknownInstruction (formatXYN 0x5 x y n)) ∧
      decodeWord (formatXYN 0x9 x y n) = .error (.unknownInstruction (formatXYN 0x9 x y n))) ∧
    (∃ t, exec (.seReg x y) s = .next t ∧ t.pc = (if s.reg x = s.reg y then s.pc + 2 else s.pc) ∧ Frame s t [.pc]) ∧
    (∃ t, exec (.sneReg x y) s = .next t ∧ t.pc = (if s.reg x ≠ s.reg y then s.pc + 2 else s.pc) ∧ Frame s t [.pc])

/-- R113 with fewer than 16 frames: the post-fetch `pc` becomes frame `sp + 1`, the other frames stay. That 16 frames fit is
the spec's decision D3 (log entry 8). -/
def Obligations.CallPushesReturnAddress : Prop :=
  ∀ (nnn : Addr) (s : State), s.sp.toNat < 16 →
    ∃ t, exec (.call nnn) s = .next t ∧ t.pc.toNat = nnn.toNat ∧ t.sp.toNat = s.sp.toNat + 1 ∧
      t.frame t.sp.toNat = some s.pc ∧ (∀ k, k ≠ t.sp.toNat → t.frame k = s.frame k) ∧ Frame s t [.pc, .stack, .sp]

/-- R111 with 1 to 16 frames: `pc` is the top frame, which keeps its value. The numbering is the spec's decision D3 (log
entry 8). -/
def Obligations.ReturnPopsTopFrame : Prop :=
  ∀ s : State, 1 ≤ s.sp.toNat → s.sp.toNat ≤ 16 →
    ∃ t, exec .ret s = .next t ∧ s.frame s.sp.toNat = some t.pc ∧ t.sp.toNat + 1 = s.sp.toNat ∧ Frame s t [.pc, .sp]

/-- R111, R113 where they fault: `CALL` with 16 frames, `RET` with none (the spec's decision D4, log entry 10). Where `sp` is
no legal value the model stops by its own name (log entry 2). -/
def Obligations.StackDepthViolationsFault : Prop :=
  ∀ (nnn : Addr) (s : State),
    (s.sp = 16 → ∃ t, exec (.call nnn) s = .next t ∧ Raised .stackOverflow (.call nnn) s t) ∧
    (s.sp = 0 → ∃ t, exec .ret s = .next t ∧ Raised .stackUnderflow .ret s t) ∧
    (16 < s.sp.toNat → exec (.call nnn) s = .fault (.noSuchFrame s.sp) ∧ exec .ret s = .fault (.noSuchFrame s.sp))

/-- R113 then R111: the return goes to the instruction after the call, whatever ran in between left the stack as it was. -/
def Obligations.ReturnUndoesCall : Prop :=
  ∀ (nnn : Addr) (s t t' : State), s.sp.toNat < 16 → exec (.call nnn) s = .next t →
    t'.sp = t.sp → t'.stack = t.stack →
    ∃ u, exec .ret t' = .next u ∧ u.pc = s.pc ∧ u.sp = s.sp ∧ Frame t' u [.pc, .sp]

/-! ### Registers (42_alu.md) -/

/-- R121, R123: only `Vx` changes. -/
def Obligations.LoadsWriteOneRegister : Prop :=
  ∀ (x y : Nibble) (nn : Byte) (s : State),
    (decodeWord (formatXNN 0x6 x nn) = .ok (.ldByte x nn) ∧ decodeWord (formatXYN 0x8 x y 0) = .ok (.ldReg x y)) ∧
    (∃ t, exec (.ldByte x nn) s = .next t ∧ t.reg x = nn ∧ Frame s t [.reg x]) ∧
    (∃ t, exec (.ldReg x y) s = .next t ∧ t.reg x = s.reg y ∧ Frame s t [.reg x])

/-- R122: modulo 256, and no flag (the frame holds `VF` unless it is `Vx`). -/
def Obligations.AddImmediateWrapsWithoutFlag : Prop :=
  ∀ (x : Nibble) (nn : Byte) (s : State), decodeWord (formatXNN 0x7 x nn) = .ok (.addByte x nn) ∧
    ∃ t, exec (.addByte x nn) s = .next t ∧ (t.reg x).toNat = ((s.reg x).toNat + nn.toNat) % 256 ∧ Frame s t [.reg x]

/-- R124, R125, R126, bit by bit; `VF` is not reset. -/
def Obligations.LogicIsBitwise : Prop :=
  ∀ (x y : Nibble) (s : State),
    (decodeWord (formatXYN 0x8 x y 1) = .ok (.orReg x y) ∧ decodeWord (formatXYN 0x8 x y 2) = .ok (.andReg x y) ∧
      decodeWord (formatXYN 0x8 x y 3) = .ok (.xorReg x y)) ∧
    (∃ t, exec (.orReg x y) s = .next t ∧
      (∀ k, (t.reg x).getLsbD k = ((s.reg x).getLsbD k || (s.reg y).getLsbD k)) ∧ Frame s t [.reg x]) ∧
    (∃ t, exec (.andReg x y) s = .next t ∧
      (∀ k, (t.reg x).getLsbD k = ((s.reg x).getLsbD k && (s.reg y).getLsbD k)) ∧ Frame s t [.reg x]) ∧
    (∃ t, exec (.xorReg x y) s = .next t ∧
      (∀ k, (t.reg x).getLsbD k = ((s.reg x).getLsbD k ^^ (s.reg y).getLsbD k)) ∧ Frame s t [.reg x])

/-- R127: the sum modulo 256 and the carry. For `x = F` the carry remains, by the order of the rule's own lines (the
spec's decision D12, log entry 9). -/
def Obligations.AddSetsCarry : Prop :=
  ∀ (x y : Nibble) (s : State), decodeWord (formatXYN 0x8 x y 4) = .ok (.addReg x y) ∧
    ∃ t, exec (.addReg x y) s = .next t ∧
      (x ≠ VF → (t.reg x).toNat = ((s.reg x).toNat + (s.reg y).toNat) % 256) ∧
      t.reg VF = (if (s.reg x).toNat + (s.reg y).toNat > 255 then 1 else 0) ∧ Frame s t [.reg x, .reg VF]

/-- R128, R130: the difference modulo 256; the flag is 1 when there is no borrow. For `x = F` the flag remains, by the
order of the rules' own lines (the spec's decision D12, log entry 9). -/
def Obligations.SubtractSetsNoBorrow : Prop :=
  ∀ (x y : Nibble) (s : State),
    (decodeWord (formatXYN 0x8 x y 5) = .ok (.subReg x y) ∧ decodeWord (formatXYN 0x8 x y 7) = .ok (.subnReg x y)) ∧
    (∃ t, exec (.subReg x y) s = .next t ∧
      (x ≠ VF → (t.reg x).toNat = (256 + (s.reg x).toNat - (s.reg y).toNat) % 256) ∧
      t.reg VF = (if (s.reg x).toNat ≥ (s.reg y).toNat then 1 else 0) ∧ Frame s t [.reg x, .reg VF]) ∧
    (∃ t, exec (.subnReg x y) s = .next t ∧
      (x ≠ VF → (t.reg x).toNat = (256 + (s.reg y).toNat - (s.reg x).toNat) % 256) ∧
      t.reg VF = (if (s.reg y).toNat ≥ (s.reg x).toNat then 1 else 0) ∧ Frame s t [.reg x, .reg VF])

/-- R129, R131: one bit, the source is `Vx` for every `y`; `VF` is the bit moved out. For `x = F` the flag remains, by the
order of the rules' own lines (the spec's decision D12, log entry 9). -/
def Obligations.ShiftsMoveOneBitIntoFlag : Prop :=
  ∀ (x y : Nibble) (s : State),
    (decodeWord (formatXYN 0x8 x y 6) = .ok (.shr x y) ∧ decodeWord (formatXYN 0x8 x y 0xE) = .ok (.shl x y)) ∧
    (∃ t, exec (.shr x y) s = .next t ∧ (x ≠ VF → (t.reg x).toNat = (s.reg x).toNat / 2) ∧
      (t.reg VF).toNat = (s.reg x).toNat % 2 ∧ Frame s t [.reg x, .reg VF]) ∧
    (∃ t, exec (.shl x y) s = .next t ∧ (x ≠ VF → (t.reg x).toNat = (s.reg x).toNat * 2 % 256) ∧
      (t.reg VF).toNat = (s.reg x).toNat / 128 ∧ Frame s t [.reg x, .reg VF])

/-- R132: the byte of the tick, masked. That the byte is an argument of the tick is the spec's decision D16 (log entry 4). -/
def Obligations.RandomIsMaskedTickByte : Prop :=
  ∀ (x : Nibble) (nn : Byte) (s : State), decodeWord (formatXNN 0xC x nn) = .ok (.rnd x nn) ∧
    ∃ t, exec (.rnd x nn) s = .next t ∧ (∀ k, (t.reg x).getLsbD k = (s.rnd.getLsbD k && nn.getLsbD k)) ∧
      Frame s t [.reg x]

/-! ### Index and memory (43_index_memory.md) -/

/-- R140. -/
def Obligations.LoadIndexTakesAddress : Prop :=
  ∀ (nnn : Addr) (s : State), decodeWord (formatNNN 0xA nnn) = .ok (.ldI nnn) ∧
    ∃ t, exec (.ldI nnn) s = .next t ∧ t.I.toNat = nnn.toNat ∧ Frame s t [.I]

/-- R141: no 12-bit mask, no flag; the wrap at 16 bits is the spec's decision D7 (log entry 11). -/
def Obligations.AddToIndexWrapsAtSixteenBits : Prop :=
  ∀ (x : Nibble) (s : State),
    ∃ t, exec (.addIVx x) s = .next t ∧ t.I.toNat = (s.I.toNat + (s.reg x).toNat) % 65536 ∧ Frame s t [.I]

/-- R142, for every `FONT_BASE`; the fault is the spec's decision D9 (log entry 10). -/
def Obligations.FontAddressOrFault : Prop :=
  ∀ (x : Nibble) (s : State),
    ((s.reg x).toNat ≤ 15 → ∃ t, exec (.ldFVx x) s = .next t ∧
      t.I.toNat = s.cfg.fontBase.val + 5 * (s.reg x).toNat ∧ Frame s t [.I]) ∧
    (15 < (s.reg x).toNat → ∃ t, exec (.ldFVx x) s = .next t ∧ Raised .fontDigitOutOfRange (.ldFVx x) s t)

/-- R143: three digit bytes at `I`, and no other byte; the fault is the spec's decision D6 (log entry 10). -/
def Obligations.DecimalStoreWritesThreeDigits : Prop :=
  ∀ (x : Nibble) (s : State),
    (s.effectiveAddress 2 ≤ 0xFFF → ∃ t, exec (.ldBVx x) s = .next t ∧
      (t.byteAt (s.effectiveAddress 0)).toNat = (s.reg x).toNat / 100 ∧
      (t.byteAt (s.effectiveAddress 1)).toNat = (s.reg x).toNat / 10 % 10 ∧
      (t.byteAt (s.effectiveAddress 2)).toNat = (s.reg x).toNat % 10 ∧
      MemoryOutside s t (s.effectiveAddress 0) 3 ∧ Frame s t [.mem]) ∧
    (0xFFF < s.effectiveAddress 2 → ∃ t, exec (.ldBVx x) s = .next t ∧ Raised .dataOutOfRange (.ldBVx x) s t)

/-- R144: `V0` to `Vx` at `I` upward, and no other byte; the fault is the spec's decision D6 (log entry 10). -/
def Obligations.RegisterStoreWritesRange : Prop :=
  ∀ (x : Nibble) (s : State),
    (s.effectiveAddress x.val ≤ 0xFFF → ∃ t, exec (.ldMemVx x) s = .next t ∧
      (∀ r : Nibble, r ≤ x → t.byteAt (s.effectiveAddress r.val) = s.reg r) ∧
      MemoryOutside s t (s.effectiveAddress 0) (x.val + 1) ∧ Frame s t [.mem]) ∧
    (0xFFF < s.effectiveAddress x.val → ∃ t, exec (.ldMemVx x) s = .next t ∧ Raised .dataOutOfRange (.ldMemVx x) s t)

/-- R145: `V0` to `Vx` from `I` upward; registers above `x`, `I` and every byte of memory stay. The fault is the spec's
decision D6 (log entry 10). -/
def Obligations.RegisterLoadReadsRange : Prop :=
  ∀ (x : Nibble) (s : State),
    (s.effectiveAddress x.val ≤ 0xFFF → ∃ t, exec (.ldVxMem x) s = .next t ∧
      (∀ r : Nibble, r ≤ x → t.reg r = s.byteAt (s.effectiveAddress r.val)) ∧
      Frame s t (((List.finRange 16).filter (fun r => decide (r ≤ x))).map Piece.reg)) ∧
    (0xFFF < s.effectiveAddress x.val → ∃ t, exec (.ldVxMem x) s = .next t ∧ Raised .dataOutOfRange (.ldVxMem x) s t)

/-- R144 then R145: whatever ran in between left memory and `I` as they were, the registers come back. -/
def Obligations.RegisterLoadUndoesStore : Prop :=
  ∀ (x : Nibble) (s t t' : State), s.effectiveAddress x.val ≤ 0xFFF → exec (.ldMemVx x) s = .next t →
    (∀ a, t'.byteAt a = t.byteAt a) → t'.I = t.I →
    ∃ u, exec (.ldVxMem x) t' = .next u ∧ ∀ r : Nibble, r ≤ x → u.reg r = s.reg r

/-- 20_memory.md R64 (which the spec derives): the word a store leaves is the word a fetch there reads, also where it
overwrites the program. -/
def Obligations.StoredWordIsFetched : Prop :=
  ∀ (x : Nibble) (s t : State), 1 ≤ x.val → s.effectiveAddress x.val ≤ 0xFFF → exec (.ldMemVx x) s = .next t →
    ∀ u : State, (∀ a, u.byteAt a = t.byteAt a) → u.pc = s.I → fetch u = some (wordOfBytes (s.reg 0) (s.reg 1))

/-! ### Display (44_display.md) -/

/-- R151: all 2048 pixels off, and `VF` not written. -/
def Obligations.ClearTurnsEveryPixelOff : Prop :=
  decodeWord 0x00E0 = .ok .cls ∧
    ∀ s : State, ∃ t, exec .cls s = .next t ∧ (∀ px py, t.display px py = false) ∧ Frame s t [.pixels]

open Classical in
/-- R152, R153: every pixel under a 1 bit of the clipped sprite is inverted, `VF` says whether one went off; operands are
read before `VF` is written (the spec's decision D13, log entry 9), the whole range is checked first and `n = 0` checks
nothing (decision D6, log entry 10). -/
def Obligations.DrawInvertsSpritePixels : Prop :=
  ∀ (x y n : Nibble) (s : State),
    (n.val = 0 ∨ s.effectiveAddress (n.val - 1) ≤ 0xFFF → ∃ t, exec (.drw x y n) s = .next t ∧
      (∀ px py, px < 64 → py < 32 → (t.display px py = true ↔ ¬(s.display px py = true ↔ s.spriteOn x y n px py))) ∧
      t.reg VF = (if ∃ px py, px < 64 ∧ py < 32 ∧ s.display px py = true ∧ s.spriteOn x y n px py then 1 else 0) ∧
      Frame s t [.pixels, .reg VF]) ∧
    (n.val ≠ 0 → 0xFFF < s.effectiveAddress (n.val - 1) →
      ∃ t, exec (.drw x y n) s = .next t ∧ Raised .dataOutOfRange (.drw x y n) s t)

/-- R152's own loop, pixel by pixel, draws what the mask of R156 (g) draws, from any origin and of any height. -/
def Obligations.DrawLoopEqualsMask : Prop :=
  ∀ (s : State) (ox oy n : Nat),
    s.drawLoop ox oy n = (s.pixels.flip (s.spriteMask ox oy n), collides s.pixels (s.spriteMask ox oy n))

/-- The document's self-XOR property: the same sprite drawn twice at one origin leaves every pixel as it was, and the second
draw collides exactly when the sprite lies on a pixel that was off. -/
def Obligations.DrawTwiceRestoresPixels : Prop :=
  ∀ (x y n : Nibble) (s t : State), x ≠ VF → y ≠ VF → n.val = 0 ∨ s.effectiveAddress (n.val - 1) ≤ 0xFFF →
    exec (.drw x y n) s = .next t →
    ∃ u, exec (.drw x y n) t = .next u ∧ (∀ px py, u.display px py = s.display px py) ∧
      (u.reg VF = 1 ↔ ∃ px py, px < 64 ∧ py < 32 ∧ s.spriteOn x y n px py ∧ s.display px py = false)

/-! ### Keypad and timers (45_keypad_timers.md) -/

/-- R160, R161; the fault on a number above 15 is the spec's decision D8 (log entry 10). -/
def Obligations.KeySkipsTestTheLevel : Prop :=
  ∀ (x : Nibble) (s : State),
    (∀ k : Nibble, (s.reg x).toNat = k.val →
      (∃ t, exec (.skp x) s = .next t ∧ t.pc = (if s.keyLevel k = .down then s.pc + 2 else s.pc) ∧ Frame s t [.pc]) ∧
      (∃ t, exec (.sknp x) s = .next t ∧ t.pc = (if s.keyLevel k = .up then s.pc + 2 else s.pc) ∧ Frame s t [.pc])) ∧
    (15 < (s.reg x).toNat →
      (∃ t, exec (.skp x) s = .next t ∧ Raised .keyIndexOutOfRange (.skp x) s t) ∧
      (∃ t, exec (.sknp x) s = .next t ∧ Raised .keyIndexOutOfRange (.sknp x) s t))

/-- R162: a recorded release completes it, none makes it stay; that the oldest is taken is the spec's decision D14 (log
entry 11). -/
def Obligations.KeyWaitTakesOldestRelease : Prop :=
  ∀ (x : Nibble) (s : State),
    (∀ k rest, s.released = k :: rest →
      ∃ t, exec (.ldVxK x) s = .next t ∧ (t.reg x).toNat = k.val ∧ Frame s t [.reg x]) ∧
    (s.released = [] → ∃ t, exec (.ldVxK x) s = .next t ∧ t.pc = s.pc - 2 ∧ Frame s t [.pc])

/-- R163, R164, R165, with the sound read-out at once. -/
def Obligations.TimerTransfersCopyBytes : Prop :=
  ∀ (x : Nibble) (s : State),
    (decodeWord (formatXNN 0xF x 0x07) = .ok (.ldVxDT x) ∧ decodeWord (formatXNN 0xF x 0x15) = .ok (.ldDTVx x) ∧
      decodeWord (formatXNN 0xF x 0x18) = .ok (.ldSTVx x)) ∧
    (∃ t, exec (.ldVxDT x) s = .next t ∧ t.reg x = s.DT ∧ Frame s t [.reg x]) ∧
    (∃ t, exec (.ldDTVx x) s = .next t ∧ t.DT = s.reg x ∧ Frame s t [.DT]) ∧
    (∃ t, exec (.ldSTVx x) s = .next t ∧ t.ST = s.reg x ∧ (t.shouldPlaySound = true ↔ 0 < (s.reg x).toNat) ∧
      Frame s t [.ST])

/-! ### The tick (40_cycle_and_host_operations.md, 60_exceptions.md) -/

/-- R91, R93: when the next operation is a tick, the machine is not faulted and the bytes at `pc` are an instruction, the
step is that instruction's meaning in the state with `pc` past the word and the tick's random byte; then `released` is
drained, unless the instruction raised a fault. (`TickNext` is the model's schedule, log entries 4 and 5.) -/
def Obligations.StepRunsDecodedInstruction : Prop :=
  ∀ (s s' : State) (r : Byte) (i : Instr), TickNext s s' r → s.fault = none → s.pc.toNat ≤ 0xFFE →
    decode [s.byteAt s.pc.toNat, s.byteAt (s.pc.toNat + 1)] = .ok (i, []) →
    step s = finishTick (exec i { s' with pc := s.pc + 2, rnd := r, diag := none }) ∧
    (∀ t, exec i { s' with pc := s.pc + 2, rnd := r, diag := none } = .next t →
      step s = .next { t with rnd := 0, released := if t.fault.isSome then t.released else [] })

/-- The instruction word placed by `withFetchWord` is the one the very next step runs, whatever the state was (log entry
13). -/
def Obligations.PlacedWordIsRunNext : Prop :=
  ∀ (s : State) (i : Instr), ∃ s' r, TickNext (s.withFetchWord 16 (encode i).toNat) s' r ∧
    step (s.withFetchWord 16 (encode i).toNat) = finishTick (exec i (s'.beginTick r))

/-- R171: an unknown word changes nothing but `pc` and the drain, and gives the diagnostic; what the diagnostic carries is
the spec's decision D18 (log entry 6). That the random byte is 0 after the tick is the model's idle value (log entry 4). -/
def Obligations.UnknownWordIsDiagnosedNoOp : Prop :=
  ∀ (s s' : State) (r : Byte), TickNext s s' r → s.fault = none → s.pc.toNat ≤ 0xFFE →
    decodeWord (s.wordAt s.pc.toNat) = .error (.unknownInstruction (s.wordAt s.pc.toNat)) →
    ∃ t, step s = .next t ∧ t.pc = s.pc + 2 ∧ t.diag = some { word := s.wordAt s.pc.toNat, addr := s.pc } ∧
      t.released = [] ∧ t.rnd = 0 ∧ Frame s' t [.pc, .diag, .released, .rnd]

/-- R92 with R176: a fetch with `pc` above 0xFFE changes nothing but the latch (the spec's decisions D2, D5; log entries 1,
10). -/
def Obligations.FetchOutOfRangeFaults : Prop :=
  ∀ (s s' : State) (r : Byte), TickNext s s' r → s.fault = none → 0xFFE < s.pc.toNat →
    ∃ t, step s = .next t ∧ t.fault = some { cause := .fetchOutOfRange, fpc := s.pc, fword := 0 } ∧ t.diag = none ∧
      Frame s' t [.fault, .diag]

/-- R101: a tick on a faulted machine changes nothing; its diagnostic is none (the spec's decision D2, log entry 1). -/
def Obligations.FaultedMachineTicksIdle : Prop :=
  ∀ (s s' : State) (r : Byte), TickNext s s' r → s.fault ≠ none →
    ∃ t, step s = .next t ∧ t.diag = none ∧ Frame s' t [.diag]

/-- R94: every tick that does not fault ends with `released` empty; a tick that faults, or finds the machine faulted, leaves
it. -/
def Obligations.TickDrainsReleases : Prop :=
  ∀ (s s' t : State) (r : Byte), TickNext s s' r → step s = .next t →
    t.released = if t.fault = none then [] else s.released

/-- R176: faults are precise: everything is as before the tick, and the latch names `pc0` and the word (the spec's decision
D2, log entry 1). `rnd` may go back to the model's idle value (log entry 4). -/
def Obligations.FaultsArePrecise : Prop :=
  ∀ (s s' t : State) (r : Byte) (f : FaultRecord), TickNext s s' r → s.fault = none → step s = .next t →
    t.fault = some f →
    f.fpc = s.pc ∧ f.fword = (if s.pc.toNat > 0xFFE then 0 else s.wordAt s.pc.toNat) ∧ t.diag = none ∧
      Frame s' t [.fault, .diag, .rnd]

/-- R173, R175: a tick of a machine that is not faulted raises exactly the fault of the table, in the order of checking,
with the code of the table (the spec's decisions D2 to D9; log entries 1, 10). -/
def Obligations.TickRaisesExactlyTheTable : Prop :=
  ∀ (s s' t : State) (r : Byte), TickNext s s' r → s.fault = none → step s = .next t →
    t.fault.map (fun f => f.cause.code) = tickFaultCode s

/-- R177: no operation but `reset` changes a latched fault (the spec's decision D2, log entry 1). -/
def Obligations.OnlyResetClearsFault : Prop :=
  ∀ (s : State) (f : FaultRecord), s.fault = some f →
    (∀ rest, s.schedule ≠ .reset :: rest) → ∃ t, step s = .next t ∧ t.fault = some f

/-! ### The other host operations (40_cycle_and_host_operations.md, 70_reset_and_hazards.md) -/

/-- R95: each timer counts one toward zero, faulted machine or not, and nothing else changes. That the operation stands in
the schedule and is taken off it is the model's choice (log entry 5). -/
def Obligations.TimersCountDownToZero : Prop :=
  ∀ (s : State) (rest : List HostOp), s.schedule = .tickTimers :: rest →
    ∃ t, step s = .next t ∧ t.DT.toNat = s.DT.toNat - 1 ∧ t.ST.toNat = s.ST.toNat - 1 ∧
      (t.shouldPlaySound = true ↔ 1 < s.ST.toNat) ∧ t.schedule = rest ∧ Frame s t [.DT, .ST, .schedule]

/-- R95 repeated: `n` calls take `n` off each timer, floored at 0. That the calls stand in the schedule and are taken off it
is the model's choice (log entry 5). -/
def Obligations.RepeatedTimerTicksFloorAtZero : Prop :=
  ∀ (n : Nat) (s : State) (rest : List HostOp), s.schedule = List.replicate n .tickTimers ++ rest →
    ∃ t, core.run n s = .next t ∧ t.DT.toNat = s.DT.toNat - n ∧ t.ST.toNat = s.ST.toNat - n ∧ t.schedule = rest ∧
      Frame s t [.DT, .ST, .schedule]

/-- R96: the level is the one given; the key is recorded on Down to Up only. That an unchanged level is a no-op and the key
number is 4 bits is the spec's decision D22 (log entry 12); that the operation stands in the schedule and is taken off it is
the model's choice (log entry 5). -/
def Obligations.KeyReleaseIsRecorded : Prop :=
  ∀ (s : State) (k : Nibble) (level : KeyLevel) (rest : List HostOp), s.schedule = .setKeyState k level :: rest →
    ∃ t, step s = .next t ∧ t.keyLevel k = level ∧ (∀ j, j ≠ k → t.keyLevel j = s.keyLevel j) ∧
      t.released = (if s.keyLevel k = .down ∧ level = .up then s.released ++ [k] else s.released) ∧ t.schedule = rest ∧
      Frame s t [.key, .released, .schedule]

/-- The document's own property of `Fx0A`: parked on it with no release, one press and release of a key between ticks
completes it with that key, and without one it stays. That the calls stand in the schedule is the model's choice (log entry
5). -/
def Obligations.PressAndReleaseCompletesKeyWait : Prop :=
  ∀ (s : State) (x k : Nibble) (r : Byte) (rest : List HostOp), s.fault = none → s.pc.toNat ≤ 0xFFE →
    decodeWord (s.wordAt s.pc.toNat) = .ok (.ldVxK x) → s.released = [] → s.keyLevel k = .up →
    (s.schedule = .tick r :: rest →
      ∃ t, core.run 1 s = .next t ∧ t.pc = s.pc ∧ t.released = [] ∧ ∀ j, t.reg j = s.reg j) ∧
    (s.schedule = .setKeyState k .down :: .setKeyState k .up :: .tick r :: rest →
      ∃ t, core.run 3 s = .next t ∧ t.pc = s.pc + 2 ∧ (t.reg x).toNat = k.val ∧ t.released = [])

/-- R97: at most 3584 bytes go to 0x200 upward and nothing else changes; a longer image changes no byte. That it may be
called at any time is the spec's decision D19 (log entry 12); that the operation stands in the schedule and is taken off it
(log entry 5) and that its result is kept in the field `loadResult` (log entry 6) are the model's choices. -/
def Obligations.RomIsCopiedOrRefused : Prop :=
  ∀ (s : State) (image : List Byte) (rest : List HostOp), s.schedule = .loadRom image :: rest →
    ∃ t, step s = .next t ∧ t.schedule = rest ∧
      (image.length ≤ 3584 → t.loadResult = some .ok ∧ (∀ k (h : k < image.length), t.byteAt (0x200 + k) = image[k]) ∧
        MemoryOutside s t 0x200 image.length ∧ Frame s t [.mem, .loadResult, .schedule]) ∧
      (3584 < image.length → t.loadResult = some .oversizedRom ∧ Frame s t [.loadResult, .schedule])

/-- 20_memory.md R52: a fetch reads the byte at `pc` as the high byte and the byte at `pc + 1` as the low byte; so bytes `2k`
and `2k + 1` of a loaded image are the high and the low byte of the instruction word at `0x200 + 2k`. -/
def Obligations.FetchIsBigEndian : Prop :=
  (∀ s : State, s.pc.toNat ≤ 0xFFE → ∃ w, fetch s = some w ∧
    w.toNat = (s.byteAt s.pc.toNat).toNat * 256 + (s.byteAt (s.pc.toNat + 1)).toNat) ∧
  (∀ (s t : State) (image : List Byte) (rest : List HostOp) (k : Nat) (h : 2 * k + 1 < image.length),
    s.schedule = .loadRom image :: rest → image.length ≤ 3584 → step s = .next t → t.pc.toNat = 0x200 + 2 * k →
    ∃ w, fetch t = some w ∧ w.toNat = image[2 * k].toNat * 256 + image[2 * k + 1].toNat)

/-- R200: from any state, `reset` gives memory with only the font, `pc` 0x0200 and all keys up (the source's values) and
zero, off, empty elsewhere (the spec's decisions D2, D3, D17; log entry 7), for every font configuration. That `reset` leaves
the field `cfg` (log entry 12) and takes itself off the schedule, whose rest stays (log entry 5), are the model's choices. -/
def Obligations.ResetRestoresEveryValue : Prop :=
  ∀ (s : State) (rest : List HostOp), s.schedule = .reset :: rest →
    ∃ t, step s = .next t ∧ t.pc = 0x0200 ∧ (∀ k, t.keyLevel k = .up) ∧
      (∀ k : Fin 80, t.byteAt (s.cfg.fontBase.val + k.val) = s.cfg.fontData[k.val]) ∧
      (∀ a, a < s.cfg.fontBase.val ∨ s.cfg.fontBase.val + 80 ≤ a → t.byteAt a = 0) ∧
      (∀ x, t.reg x = 0) ∧ t.I = 0 ∧ (∀ k, 1 ≤ k → k ≤ 16 → t.frame k = some 0) ∧ t.sp = 0 ∧ t.DT = 0 ∧ t.ST = 0 ∧
      (∀ px py, t.display px py = false) ∧ t.released = [] ∧ t.fault = none ∧ t.cfg = s.cfg ∧ t.schedule = rest

/-! ### The whole machine -/

/-- R36: `pc` at most 0x10FE, `sp` in 0 to 16, memory in its canonical form, kept by every step, whichever operation it is. -/
def Obligations.InvariantIsKeptByEveryStep : Prop := ∀ s t : State, Legal s → step s = .next t → Legal t

/-- R36 at reset. -/
def Obligations.InvariantHoldsAtReset : Prop := Legal State.reset

/-- In every state that satisfies the invariant the step has a next state: the model never stops (a fault of the machine is
a next state, log entry 1). -/
def Obligations.InvariantStatesNeverStop : Prop := ∀ s : State, Legal s → ∃ t, step s = .next t

/-- The configuration never changes, and every step takes one operation off the schedule (log entries 3 and 5). -/
def Obligations.StepsKeepConfigAndConsumeSchedule : Prop :=
  ∀ s t : State, step s = .next t → t.cfg = s.cfg ∧ t.schedule = s.schedule.tail

/-- R90, R91: a tick never changes `key`, and `DT`, `ST`, `mem`, the pixels only by the instructions named. -/
def Obligations.TickLeavesKeysAndDevices : Prop :=
  ∀ (s s' t : State) (r : Byte), TickNext s s' r → step s = .next t →
    t.key = s.key ∧
    ((∀ x, decodeWord (s.wordAt s.pc.toNat) ≠ .ok (.ldDTVx x)) → t.DT = s.DT) ∧
    ((∀ x, decodeWord (s.wordAt s.pc.toNat) ≠ .ok (.ldSTVx x)) → t.ST = s.ST) ∧
    ((∀ x, decodeWord (s.wordAt s.pc.toNat) ≠ .ok (.ldBVx x) ∧ decodeWord (s.wordAt s.pc.toNat) ≠ .ok (.ldMemVx x)) →
      ∀ a, t.byteAt a = s.byteAt a) ∧
    (decodeWord (s.wordAt s.pc.toNat) ≠ .ok .cls → (∀ x y n, decodeWord (s.wordAt s.pc.toNat) ≠ .ok (.drw x y n)) →
      t.pixels = s.pixels)

/-- R37, the `w` marks: an instruction that raises no fault changes only what its row of the table lists. Which bytes of
memory the two stores write is `DecimalStoreWritesThreeDigits` and `RegisterStoreWritesRange`. -/
def Obligations.InstructionsWriteOnlyTheirRow : Prop :=
  ∀ (i : Instr) (s t : State), s.fault = none → exec i s = .next t → t.fault = none →
    ∀ p, mayWrite i p = false → p.same s t

/-- R37, the `r` marks, with the reads that have no column there (`sp`: R111, R113; `FONT_BASE`: R142; `rnd`: R132; `released`:
R162): two states that agree on what an instruction's row reads and writes have outcomes that agree on what it writes and on
the fault; nothing else (`ST` above all) can influence it. That `FONT_BASE` and the random byte are the fields `cfg` and `rnd`
is the model's choice (log entries 3, 4). -/
def Obligations.OutcomeDependsOnlyOnReadRow : Prop :=
  ∀ (i : Instr) (s s' t : State), s.fault = none → s'.fault = none → s.pc = s'.pc →
    (∀ p, mayRead i p = true ∨ mayWrite i p = true → p.same s s') → exec i s = .next t →
    ∃ t', exec i s' = .next t' ∧ t'.fault = t.fault ∧ t'.pc = t.pc ∧ ∀ p, mayWrite i p = true → p.same t t'
end

