-- ==== Sys2Proof/Laws/State.lean ====
section
/-! SUPPORT. One lemma per field and update of the state, each true by definition, so that no proof unfolds a record
update. `byteAt`, `reg`, `keyLevel` and `frame` follow from the field they read. -/

namespace Sys2Proof.Machine

variable (s : State)

/-! `setReg` -/

@[simp] theorem State.setReg_cfg (x : Nibble) (b : Byte) : (s.setReg x b).cfg = s.cfg := rfl
@[simp] theorem State.setReg_mem (x : Nibble) (b : Byte) : (s.setReg x b).mem = s.mem := rfl
@[simp] theorem State.setReg_V (x : Nibble) (b : Byte) : (s.setReg x b).V = s.V.set x.val b := rfl
@[simp] theorem State.setReg_I (x : Nibble) (b : Byte) : (s.setReg x b).I = s.I := rfl
@[simp] theorem State.setReg_pc (x : Nibble) (b : Byte) : (s.setReg x b).pc = s.pc := rfl
@[simp] theorem State.setReg_stack (x : Nibble) (b : Byte) : (s.setReg x b).stack = s.stack := rfl
@[simp] theorem State.setReg_sp (x : Nibble) (b : Byte) : (s.setReg x b).sp = s.sp := rfl
@[simp] theorem State.setReg_DT (x : Nibble) (b : Byte) : (s.setReg x b).DT = s.DT := rfl
@[simp] theorem State.setReg_ST (x : Nibble) (b : Byte) : (s.setReg x b).ST = s.ST := rfl
@[simp] theorem State.setReg_pixels (x : Nibble) (b : Byte) : (s.setReg x b).pixels = s.pixels := rfl
@[simp] theorem State.setReg_key (x : Nibble) (b : Byte) : (s.setReg x b).key = s.key := rfl
@[simp] theorem State.setReg_released (x : Nibble) (b : Byte) : (s.setReg x b).released = s.released := rfl
@[simp] theorem State.setReg_fault (x : Nibble) (b : Byte) : (s.setReg x b).fault = s.fault := rfl
@[simp] theorem State.setReg_rnd (x : Nibble) (b : Byte) : (s.setReg x b).rnd = s.rnd := rfl
@[simp] theorem State.setReg_draws (x : Nibble) (b : Byte) : (s.setReg x b).draws = s.draws := rfl
@[simp] theorem State.setReg_diag (x : Nibble) (b : Byte) : (s.setReg x b).diag = s.diag := rfl
@[simp] theorem State.setReg_loadResult (x : Nibble) (b : Byte) : (s.setReg x b).loadResult = s.loadResult := rfl
@[simp] theorem State.setReg_schedule (x : Nibble) (b : Byte) : (s.setReg x b).schedule = s.schedule := rfl
@[simp] theorem State.setReg_byteAt (x : Nibble) (b : Byte) (a' : Nat) : (s.setReg x b).byteAt a' = s.byteAt a' := rfl
@[simp] theorem State.setReg_keyLevel (x : Nibble) (b : Byte) (k' : Nibble) : (s.setReg x b).keyLevel k' = s.keyLevel k' := rfl
@[simp] theorem State.setReg_frame (x : Nibble) (b : Byte) (k' : Nat) : (s.setReg x b).frame k' = s.frame k' := rfl

/-! `setRegs` -/

@[simp] theorem State.setRegs_cfg (v : Vector Byte 16) : (s.setRegs v).cfg = s.cfg := rfl
@[simp] theorem State.setRegs_mem (v : Vector Byte 16) : (s.setRegs v).mem = s.mem := rfl
@[simp] theorem State.setRegs_V (v : Vector Byte 16) : (s.setRegs v).V = v := rfl
@[simp] theorem State.setRegs_I (v : Vector Byte 16) : (s.setRegs v).I = s.I := rfl
@[simp] theorem State.setRegs_pc (v : Vector Byte 16) : (s.setRegs v).pc = s.pc := rfl
@[simp] theorem State.setRegs_stack (v : Vector Byte 16) : (s.setRegs v).stack = s.stack := rfl
@[simp] theorem State.setRegs_sp (v : Vector Byte 16) : (s.setRegs v).sp = s.sp := rfl
@[simp] theorem State.setRegs_DT (v : Vector Byte 16) : (s.setRegs v).DT = s.DT := rfl
@[simp] theorem State.setRegs_ST (v : Vector Byte 16) : (s.setRegs v).ST = s.ST := rfl
@[simp] theorem State.setRegs_pixels (v : Vector Byte 16) : (s.setRegs v).pixels = s.pixels := rfl
@[simp] theorem State.setRegs_key (v : Vector Byte 16) : (s.setRegs v).key = s.key := rfl
@[simp] theorem State.setRegs_released (v : Vector Byte 16) : (s.setRegs v).released = s.released := rfl
@[simp] theorem State.setRegs_fault (v : Vector Byte 16) : (s.setRegs v).fault = s.fault := rfl
@[simp] theorem State.setRegs_rnd (v : Vector Byte 16) : (s.setRegs v).rnd = s.rnd := rfl
@[simp] theorem State.setRegs_draws (v : Vector Byte 16) : (s.setRegs v).draws = s.draws := rfl
@[simp] theorem State.setRegs_diag (v : Vector Byte 16) : (s.setRegs v).diag = s.diag := rfl
@[simp] theorem State.setRegs_loadResult (v : Vector Byte 16) : (s.setRegs v).loadResult = s.loadResult := rfl
@[simp] theorem State.setRegs_schedule (v : Vector Byte 16) : (s.setRegs v).schedule = s.schedule := rfl
@[simp] theorem State.setRegs_byteAt (v : Vector Byte 16) (a' : Nat) : (s.setRegs v).byteAt a' = s.byteAt a' := rfl
@[simp] theorem State.setRegs_keyLevel (v : Vector Byte 16) (k' : Nibble) : (s.setRegs v).keyLevel k' = s.keyLevel k' := rfl
@[simp] theorem State.setRegs_frame (v : Vector Byte 16) (k' : Nat) : (s.setRegs v).frame k' = s.frame k' := rfl

/-! `setI` -/

@[simp] theorem State.setI_cfg (w : Word) : (s.setI w).cfg = s.cfg := rfl
@[simp] theorem State.setI_mem (w : Word) : (s.setI w).mem = s.mem := rfl
@[simp] theorem State.setI_V (w : Word) : (s.setI w).V = s.V := rfl
@[simp] theorem State.setI_I (w : Word) : (s.setI w).I = w := rfl
@[simp] theorem State.setI_pc (w : Word) : (s.setI w).pc = s.pc := rfl
@[simp] theorem State.setI_stack (w : Word) : (s.setI w).stack = s.stack := rfl
@[simp] theorem State.setI_sp (w : Word) : (s.setI w).sp = s.sp := rfl
@[simp] theorem State.setI_DT (w : Word) : (s.setI w).DT = s.DT := rfl
@[simp] theorem State.setI_ST (w : Word) : (s.setI w).ST = s.ST := rfl
@[simp] theorem State.setI_pixels (w : Word) : (s.setI w).pixels = s.pixels := rfl
@[simp] theorem State.setI_key (w : Word) : (s.setI w).key = s.key := rfl
@[simp] theorem State.setI_released (w : Word) : (s.setI w).released = s.released := rfl
@[simp] theorem State.setI_fault (w : Word) : (s.setI w).fault = s.fault := rfl
@[simp] theorem State.setI_rnd (w : Word) : (s.setI w).rnd = s.rnd := rfl
@[simp] theorem State.setI_draws (w : Word) : (s.setI w).draws = s.draws := rfl
@[simp] theorem State.setI_diag (w : Word) : (s.setI w).diag = s.diag := rfl
@[simp] theorem State.setI_loadResult (w : Word) : (s.setI w).loadResult = s.loadResult := rfl
@[simp] theorem State.setI_schedule (w : Word) : (s.setI w).schedule = s.schedule := rfl
@[simp] theorem State.setI_byteAt (w : Word) (a' : Nat) : (s.setI w).byteAt a' = s.byteAt a' := rfl
@[simp] theorem State.setI_reg (w : Word) (r' : Nibble) : (s.setI w).reg r' = s.reg r' := rfl
@[simp] theorem State.setI_keyLevel (w : Word) (k' : Nibble) : (s.setI w).keyLevel k' = s.keyLevel k' := rfl
@[simp] theorem State.setI_frame (w : Word) (k' : Nat) : (s.setI w).frame k' = s.frame k' := rfl

/-! `setPc` -/

@[simp] theorem State.setPc_cfg (w : Word) : (s.setPc w).cfg = s.cfg := rfl
@[simp] theorem State.setPc_mem (w : Word) : (s.setPc w).mem = s.mem := rfl
@[simp] theorem State.setPc_V (w : Word) : (s.setPc w).V = s.V := rfl
@[simp] theorem State.setPc_I (w : Word) : (s.setPc w).I = s.I := rfl
@[simp] theorem State.setPc_pc (w : Word) : (s.setPc w).pc = w := rfl
@[simp] theorem State.setPc_stack (w : Word) : (s.setPc w).stack = s.stack := rfl
@[simp] theorem State.setPc_sp (w : Word) : (s.setPc w).sp = s.sp := rfl
@[simp] theorem State.setPc_DT (w : Word) : (s.setPc w).DT = s.DT := rfl
@[simp] theorem State.setPc_ST (w : Word) : (s.setPc w).ST = s.ST := rfl
@[simp] theorem State.setPc_pixels (w : Word) : (s.setPc w).pixels = s.pixels := rfl
@[simp] theorem State.setPc_key (w : Word) : (s.setPc w).key = s.key := rfl
@[simp] theorem State.setPc_released (w : Word) : (s.setPc w).released = s.released := rfl
@[simp] theorem State.setPc_fault (w : Word) : (s.setPc w).fault = s.fault := rfl
@[simp] theorem State.setPc_rnd (w : Word) : (s.setPc w).rnd = s.rnd := rfl
@[simp] theorem State.setPc_draws (w : Word) : (s.setPc w).draws = s.draws := rfl
@[simp] theorem State.setPc_diag (w : Word) : (s.setPc w).diag = s.diag := rfl
@[simp] theorem State.setPc_loadResult (w : Word) : (s.setPc w).loadResult = s.loadResult := rfl
@[simp] theorem State.setPc_schedule (w : Word) : (s.setPc w).schedule = s.schedule := rfl
@[simp] theorem State.setPc_byteAt (w : Word) (a' : Nat) : (s.setPc w).byteAt a' = s.byteAt a' := rfl
@[simp] theorem State.setPc_reg (w : Word) (r' : Nibble) : (s.setPc w).reg r' = s.reg r' := rfl
@[simp] theorem State.setPc_keyLevel (w : Word) (k' : Nibble) : (s.setPc w).keyLevel k' = s.keyLevel k' := rfl
@[simp] theorem State.setPc_frame (w : Word) (k' : Nat) : (s.setPc w).frame k' = s.frame k' := rfl

/-! `setDT` -/

@[simp] theorem State.setDT_cfg (b : Byte) : (s.setDT b).cfg = s.cfg := rfl
@[simp] theorem State.setDT_mem (b : Byte) : (s.setDT b).mem = s.mem := rfl
@[simp] theorem State.setDT_V (b : Byte) : (s.setDT b).V = s.V := rfl
@[simp] theorem State.setDT_I (b : Byte) : (s.setDT b).I = s.I := rfl
@[simp] theorem State.setDT_pc (b : Byte) : (s.setDT b).pc = s.pc := rfl
@[simp] theorem State.setDT_stack (b : Byte) : (s.setDT b).stack = s.stack := rfl
@[simp] theorem State.setDT_sp (b : Byte) : (s.setDT b).sp = s.sp := rfl
@[simp] theorem State.setDT_DT (b : Byte) : (s.setDT b).DT = b := rfl
@[simp] theorem State.setDT_ST (b : Byte) : (s.setDT b).ST = s.ST := rfl
@[simp] theorem State.setDT_pixels (b : Byte) : (s.setDT b).pixels = s.pixels := rfl
@[simp] theorem State.setDT_key (b : Byte) : (s.setDT b).key = s.key := rfl
@[simp] theorem State.setDT_released (b : Byte) : (s.setDT b).released = s.released := rfl
@[simp] theorem State.setDT_fault (b : Byte) : (s.setDT b).fault = s.fault := rfl
@[simp] theorem State.setDT_rnd (b : Byte) : (s.setDT b).rnd = s.rnd := rfl
@[simp] theorem State.setDT_draws (b : Byte) : (s.setDT b).draws = s.draws := rfl
@[simp] theorem State.setDT_diag (b : Byte) : (s.setDT b).diag = s.diag := rfl
@[simp] theorem State.setDT_loadResult (b : Byte) : (s.setDT b).loadResult = s.loadResult := rfl
@[simp] theorem State.setDT_schedule (b : Byte) : (s.setDT b).schedule = s.schedule := rfl
@[simp] theorem State.setDT_byteAt (b : Byte) (a' : Nat) : (s.setDT b).byteAt a' = s.byteAt a' := rfl
@[simp] theorem State.setDT_reg (b : Byte) (r' : Nibble) : (s.setDT b).reg r' = s.reg r' := rfl
@[simp] theorem State.setDT_keyLevel (b : Byte) (k' : Nibble) : (s.setDT b).keyLevel k' = s.keyLevel k' := rfl
@[simp] theorem State.setDT_frame (b : Byte) (k' : Nat) : (s.setDT b).frame k' = s.frame k' := rfl

/-! `setST` -/

@[simp] theorem State.setST_cfg (b : Byte) : (s.setST b).cfg = s.cfg := rfl
@[simp] theorem State.setST_mem (b : Byte) : (s.setST b).mem = s.mem := rfl
@[simp] theorem State.setST_V (b : Byte) : (s.setST b).V = s.V := rfl
@[simp] theorem State.setST_I (b : Byte) : (s.setST b).I = s.I := rfl
@[simp] theorem State.setST_pc (b : Byte) : (s.setST b).pc = s.pc := rfl
@[simp] theorem State.setST_stack (b : Byte) : (s.setST b).stack = s.stack := rfl
@[simp] theorem State.setST_sp (b : Byte) : (s.setST b).sp = s.sp := rfl
@[simp] theorem State.setST_DT (b : Byte) : (s.setST b).DT = s.DT := rfl
@[simp] theorem State.setST_ST (b : Byte) : (s.setST b).ST = b := rfl
@[simp] theorem State.setST_pixels (b : Byte) : (s.setST b).pixels = s.pixels := rfl
@[simp] theorem State.setST_key (b : Byte) : (s.setST b).key = s.key := rfl
@[simp] theorem State.setST_released (b : Byte) : (s.setST b).released = s.released := rfl
@[simp] theorem State.setST_fault (b : Byte) : (s.setST b).fault = s.fault := rfl
@[simp] theorem State.setST_rnd (b : Byte) : (s.setST b).rnd = s.rnd := rfl
@[simp] theorem State.setST_draws (b : Byte) : (s.setST b).draws = s.draws := rfl
@[simp] theorem State.setST_diag (b : Byte) : (s.setST b).diag = s.diag := rfl
@[simp] theorem State.setST_loadResult (b : Byte) : (s.setST b).loadResult = s.loadResult := rfl
@[simp] theorem State.setST_schedule (b : Byte) : (s.setST b).schedule = s.schedule := rfl
@[simp] theorem State.setST_byteAt (b : Byte) (a' : Nat) : (s.setST b).byteAt a' = s.byteAt a' := rfl
@[simp] theorem State.setST_reg (b : Byte) (r' : Nibble) : (s.setST b).reg r' = s.reg r' := rfl
@[simp] theorem State.setST_keyLevel (b : Byte) (k' : Nibble) : (s.setST b).keyLevel k' = s.keyLevel k' := rfl
@[simp] theorem State.setST_frame (b : Byte) (k' : Nat) : (s.setST b).frame k' = s.frame k' := rfl

/-! `setPixels` -/

@[simp] theorem State.setPixels_cfg (fb : Framebuffer) : (s.setPixels fb).cfg = s.cfg := rfl
@[simp] theorem State.setPixels_mem (fb : Framebuffer) : (s.setPixels fb).mem = s.mem := rfl
@[simp] theorem State.setPixels_V (fb : Framebuffer) : (s.setPixels fb).V = s.V := rfl
@[simp] theorem State.setPixels_I (fb : Framebuffer) : (s.setPixels fb).I = s.I := rfl
@[simp] theorem State.setPixels_pc (fb : Framebuffer) : (s.setPixels fb).pc = s.pc := rfl
@[simp] theorem State.setPixels_stack (fb : Framebuffer) : (s.setPixels fb).stack = s.stack := rfl
@[simp] theorem State.setPixels_sp (fb : Framebuffer) : (s.setPixels fb).sp = s.sp := rfl
@[simp] theorem State.setPixels_DT (fb : Framebuffer) : (s.setPixels fb).DT = s.DT := rfl
@[simp] theorem State.setPixels_ST (fb : Framebuffer) : (s.setPixels fb).ST = s.ST := rfl
@[simp] theorem State.setPixels_pixels (fb : Framebuffer) : (s.setPixels fb).pixels = fb := rfl
@[simp] theorem State.setPixels_key (fb : Framebuffer) : (s.setPixels fb).key = s.key := rfl
@[simp] theorem State.setPixels_released (fb : Framebuffer) : (s.setPixels fb).released = s.released := rfl
@[simp] theorem State.setPixels_fault (fb : Framebuffer) : (s.setPixels fb).fault = s.fault := rfl
@[simp] theorem State.setPixels_rnd (fb : Framebuffer) : (s.setPixels fb).rnd = s.rnd := rfl
@[simp] theorem State.setPixels_draws (fb : Framebuffer) : (s.setPixels fb).draws = s.draws := rfl
@[simp] theorem State.setPixels_diag (fb : Framebuffer) : (s.setPixels fb).diag = s.diag := rfl
@[simp] theorem State.setPixels_loadResult (fb : Framebuffer) : (s.setPixels fb).loadResult = s.loadResult := rfl
@[simp] theorem State.setPixels_schedule (fb : Framebuffer) : (s.setPixels fb).schedule = s.schedule := rfl
@[simp] theorem State.setPixels_byteAt (fb : Framebuffer) (a' : Nat) : (s.setPixels fb).byteAt a' = s.byteAt a' := rfl
@[simp] theorem State.setPixels_reg (fb : Framebuffer) (r' : Nibble) : (s.setPixels fb).reg r' = s.reg r' := rfl
@[simp] theorem State.setPixels_keyLevel (fb : Framebuffer) (k' : Nibble) : (s.setPixels fb).keyLevel k' = s.keyLevel k' := rfl
@[simp] theorem State.setPixels_frame (fb : Framebuffer) (k' : Nat) : (s.setPixels fb).frame k' = s.frame k' := rfl

/-! `setBytes` -/

@[simp] theorem State.setBytes_cfg (a : Nat) (bs : List Byte) : (s.setBytes a bs).cfg = s.cfg := rfl
@[simp] theorem State.setBytes_mem (a : Nat) (bs : List Byte) : (s.setBytes a bs).mem = Memory.writeAll s.cfg s.mem a bs := rfl
@[simp] theorem State.setBytes_V (a : Nat) (bs : List Byte) : (s.setBytes a bs).V = s.V := rfl
@[simp] theorem State.setBytes_I (a : Nat) (bs : List Byte) : (s.setBytes a bs).I = s.I := rfl
@[simp] theorem State.setBytes_pc (a : Nat) (bs : List Byte) : (s.setBytes a bs).pc = s.pc := rfl
@[simp] theorem State.setBytes_stack (a : Nat) (bs : List Byte) : (s.setBytes a bs).stack = s.stack := rfl
@[simp] theorem State.setBytes_sp (a : Nat) (bs : List Byte) : (s.setBytes a bs).sp = s.sp := rfl
@[simp] theorem State.setBytes_DT (a : Nat) (bs : List Byte) : (s.setBytes a bs).DT = s.DT := rfl
@[simp] theorem State.setBytes_ST (a : Nat) (bs : List Byte) : (s.setBytes a bs).ST = s.ST := rfl
@[simp] theorem State.setBytes_pixels (a : Nat) (bs : List Byte) : (s.setBytes a bs).pixels = s.pixels := rfl
@[simp] theorem State.setBytes_key (a : Nat) (bs : List Byte) : (s.setBytes a bs).key = s.key := rfl
@[simp] theorem State.setBytes_released (a : Nat) (bs : List Byte) : (s.setBytes a bs).released = s.released := rfl
@[simp] theorem State.setBytes_fault (a : Nat) (bs : List Byte) : (s.setBytes a bs).fault = s.fault := rfl
@[simp] theorem State.setBytes_rnd (a : Nat) (bs : List Byte) : (s.setBytes a bs).rnd = s.rnd := rfl
@[simp] theorem State.setBytes_draws (a : Nat) (bs : List Byte) : (s.setBytes a bs).draws = s.draws := rfl
@[simp] theorem State.setBytes_diag (a : Nat) (bs : List Byte) : (s.setBytes a bs).diag = s.diag := rfl
@[simp] theorem State.setBytes_loadResult (a : Nat) (bs : List Byte) : (s.setBytes a bs).loadResult = s.loadResult := rfl
@[simp] theorem State.setBytes_schedule (a : Nat) (bs : List Byte) : (s.setBytes a bs).schedule = s.schedule := rfl
@[simp] theorem State.setBytes_reg (a : Nat) (bs : List Byte) (r' : Nibble) : (s.setBytes a bs).reg r' = s.reg r' := rfl
@[simp] theorem State.setBytes_keyLevel (a : Nat) (bs : List Byte) (k' : Nibble) : (s.setBytes a bs).keyLevel k' = s.keyLevel k' := rfl
@[simp] theorem State.setBytes_frame (a : Nat) (bs : List Byte) (k' : Nat) : (s.setBytes a bs).frame k' = s.frame k' := rfl

/-! `pushFrame` -/

@[simp] theorem State.pushFrame_cfg (w : Word) : (s.pushFrame w).cfg = s.cfg := rfl
@[simp] theorem State.pushFrame_mem (w : Word) : (s.pushFrame w).mem = s.mem := rfl
@[simp] theorem State.pushFrame_V (w : Word) : (s.pushFrame w).V = s.V := rfl
@[simp] theorem State.pushFrame_I (w : Word) : (s.pushFrame w).I = s.I := rfl
@[simp] theorem State.pushFrame_pc (w : Word) : (s.pushFrame w).pc = s.pc := rfl
@[simp] theorem State.pushFrame_stack (w : Word) : (s.pushFrame w).stack = s.stack.setIfInBounds s.sp.toNat w := rfl
@[simp] theorem State.pushFrame_sp (w : Word) : (s.pushFrame w).sp = s.sp + 1 := rfl
@[simp] theorem State.pushFrame_DT (w : Word) : (s.pushFrame w).DT = s.DT := rfl
@[simp] theorem State.pushFrame_ST (w : Word) : (s.pushFrame w).ST = s.ST := rfl
@[simp] theorem State.pushFrame_pixels (w : Word) : (s.pushFrame w).pixels = s.pixels := rfl
@[simp] theorem State.pushFrame_key (w : Word) : (s.pushFrame w).key = s.key := rfl
@[simp] theorem State.pushFrame_released (w : Word) : (s.pushFrame w).released = s.released := rfl
@[simp] theorem State.pushFrame_fault (w : Word) : (s.pushFrame w).fault = s.fault := rfl
@[simp] theorem State.pushFrame_rnd (w : Word) : (s.pushFrame w).rnd = s.rnd := rfl
@[simp] theorem State.pushFrame_draws (w : Word) : (s.pushFrame w).draws = s.draws := rfl
@[simp] theorem State.pushFrame_diag (w : Word) : (s.pushFrame w).diag = s.diag := rfl
@[simp] theorem State.pushFrame_loadResult (w : Word) : (s.pushFrame w).loadResult = s.loadResult := rfl
@[simp] theorem State.pushFrame_schedule (w : Word) : (s.pushFrame w).schedule = s.schedule := rfl
@[simp] theorem State.pushFrame_byteAt (w : Word) (a' : Nat) : (s.pushFrame w).byteAt a' = s.byteAt a' := rfl
@[simp] theorem State.pushFrame_reg (w : Word) (r' : Nibble) : (s.pushFrame w).reg r' = s.reg r' := rfl
@[simp] theorem State.pushFrame_keyLevel (w : Word) (k' : Nibble) : (s.pushFrame w).keyLevel k' = s.keyLevel k' := rfl

/-! `popFrame` -/

@[simp] theorem State.popFrame_cfg : (s.popFrame).cfg = s.cfg := rfl
@[simp] theorem State.popFrame_mem : (s.popFrame).mem = s.mem := rfl
@[simp] theorem State.popFrame_V : (s.popFrame).V = s.V := rfl
@[simp] theorem State.popFrame_I : (s.popFrame).I = s.I := rfl
@[simp] theorem State.popFrame_pc : (s.popFrame).pc = s.pc := rfl
@[simp] theorem State.popFrame_stack : (s.popFrame).stack = s.stack := rfl
@[simp] theorem State.popFrame_sp : (s.popFrame).sp = s.sp - 1 := rfl
@[simp] theorem State.popFrame_DT : (s.popFrame).DT = s.DT := rfl
@[simp] theorem State.popFrame_ST : (s.popFrame).ST = s.ST := rfl
@[simp] theorem State.popFrame_pixels : (s.popFrame).pixels = s.pixels := rfl
@[simp] theorem State.popFrame_key : (s.popFrame).key = s.key := rfl
@[simp] theorem State.popFrame_released : (s.popFrame).released = s.released := rfl
@[simp] theorem State.popFrame_fault : (s.popFrame).fault = s.fault := rfl
@[simp] theorem State.popFrame_rnd : (s.popFrame).rnd = s.rnd := rfl
@[simp] theorem State.popFrame_draws : (s.popFrame).draws = s.draws := rfl
@[simp] theorem State.popFrame_diag : (s.popFrame).diag = s.diag := rfl
@[simp] theorem State.popFrame_loadResult : (s.popFrame).loadResult = s.loadResult := rfl
@[simp] theorem State.popFrame_schedule : (s.popFrame).schedule = s.schedule := rfl
@[simp] theorem State.popFrame_byteAt (a' : Nat) : (s.popFrame).byteAt a' = s.byteAt a' := rfl
@[simp] theorem State.popFrame_reg (r' : Nibble) : (s.popFrame).reg r' = s.reg r' := rfl
@[simp] theorem State.popFrame_keyLevel (k' : Nibble) : (s.popFrame).keyLevel k' = s.keyLevel k' := rfl
@[simp] theorem State.popFrame_frame (k' : Nat) : (s.popFrame).frame k' = s.frame k' := rfl

/-! `beginTick` -/

@[simp] theorem State.beginTick_cfg (r : Byte) : (s.beginTick r).cfg = s.cfg := rfl
@[simp] theorem State.beginTick_mem (r : Byte) : (s.beginTick r).mem = s.mem := rfl
@[simp] theorem State.beginTick_V (r : Byte) : (s.beginTick r).V = s.V := rfl
@[simp] theorem State.beginTick_I (r : Byte) : (s.beginTick r).I = s.I := rfl
@[simp] theorem State.beginTick_pc (r : Byte) : (s.beginTick r).pc = s.pc + 2 := rfl
@[simp] theorem State.beginTick_stack (r : Byte) : (s.beginTick r).stack = s.stack := rfl
@[simp] theorem State.beginTick_sp (r : Byte) : (s.beginTick r).sp = s.sp := rfl
@[simp] theorem State.beginTick_DT (r : Byte) : (s.beginTick r).DT = s.DT := rfl
@[simp] theorem State.beginTick_ST (r : Byte) : (s.beginTick r).ST = s.ST := rfl
@[simp] theorem State.beginTick_pixels (r : Byte) : (s.beginTick r).pixels = s.pixels := rfl
@[simp] theorem State.beginTick_key (r : Byte) : (s.beginTick r).key = s.key := rfl
@[simp] theorem State.beginTick_released (r : Byte) : (s.beginTick r).released = s.released := rfl
@[simp] theorem State.beginTick_fault (r : Byte) : (s.beginTick r).fault = s.fault := rfl
@[simp] theorem State.beginTick_rnd (r : Byte) : (s.beginTick r).rnd = r := rfl
@[simp] theorem State.beginTick_draws (r : Byte) : (s.beginTick r).draws = s.draws := rfl
@[simp] theorem State.beginTick_diag (r : Byte) : (s.beginTick r).diag = none := rfl
@[simp] theorem State.beginTick_loadResult (r : Byte) : (s.beginTick r).loadResult = s.loadResult := rfl
@[simp] theorem State.beginTick_schedule (r : Byte) : (s.beginTick r).schedule = s.schedule := rfl
@[simp] theorem State.beginTick_byteAt (r : Byte) (a' : Nat) : (s.beginTick r).byteAt a' = s.byteAt a' := rfl
@[simp] theorem State.beginTick_reg (r : Byte) (r' : Nibble) : (s.beginTick r).reg r' = s.reg r' := rfl
@[simp] theorem State.beginTick_keyLevel (r : Byte) (k' : Nibble) : (s.beginTick r).keyLevel k' = s.keyLevel k' := rfl
@[simp] theorem State.beginTick_frame (r : Byte) (k' : Nat) : (s.beginTick r).frame k' = s.frame k' := rfl

/-! `endTick` -/

@[simp] theorem State.endTick_cfg : (s.endTick).cfg = s.cfg := rfl
@[simp] theorem State.endTick_mem : (s.endTick).mem = s.mem := rfl
@[simp] theorem State.endTick_V : (s.endTick).V = s.V := rfl
@[simp] theorem State.endTick_I : (s.endTick).I = s.I := rfl
@[simp] theorem State.endTick_pc : (s.endTick).pc = s.pc := rfl
@[simp] theorem State.endTick_stack : (s.endTick).stack = s.stack := rfl
@[simp] theorem State.endTick_sp : (s.endTick).sp = s.sp := rfl
@[simp] theorem State.endTick_DT : (s.endTick).DT = s.DT := rfl
@[simp] theorem State.endTick_ST : (s.endTick).ST = s.ST := rfl
@[simp] theorem State.endTick_pixels : (s.endTick).pixels = s.pixels := rfl
@[simp] theorem State.endTick_key : (s.endTick).key = s.key := rfl
@[simp] theorem State.endTick_released : (s.endTick).released = if s.fault.isSome then s.released else [] := rfl
@[simp] theorem State.endTick_fault : (s.endTick).fault = s.fault := rfl
@[simp] theorem State.endTick_rnd : (s.endTick).rnd = 0x00 := rfl
@[simp] theorem State.endTick_draws : (s.endTick).draws = s.draws := rfl
@[simp] theorem State.endTick_diag : (s.endTick).diag = s.diag := rfl
@[simp] theorem State.endTick_loadResult : (s.endTick).loadResult = s.loadResult := rfl
@[simp] theorem State.endTick_schedule : (s.endTick).schedule = s.schedule := rfl
@[simp] theorem State.endTick_byteAt (a' : Nat) : (s.endTick).byteAt a' = s.byteAt a' := rfl
@[simp] theorem State.endTick_reg (r' : Nibble) : (s.endTick).reg r' = s.reg r' := rfl
@[simp] theorem State.endTick_keyLevel (k' : Nibble) : (s.endTick).keyLevel k' = s.keyLevel k' := rfl
@[simp] theorem State.endTick_frame (k' : Nat) : (s.endTick).frame k' = s.frame k' := rfl

/-! `fetchFault` -/

@[simp] theorem State.fetchFault_cfg : (s.fetchFault).cfg = s.cfg := rfl
@[simp] theorem State.fetchFault_mem : (s.fetchFault).mem = s.mem := rfl
@[simp] theorem State.fetchFault_V : (s.fetchFault).V = s.V := rfl
@[simp] theorem State.fetchFault_I : (s.fetchFault).I = s.I := rfl
@[simp] theorem State.fetchFault_pc : (s.fetchFault).pc = s.pc := rfl
@[simp] theorem State.fetchFault_stack : (s.fetchFault).stack = s.stack := rfl
@[simp] theorem State.fetchFault_sp : (s.fetchFault).sp = s.sp := rfl
@[simp] theorem State.fetchFault_DT : (s.fetchFault).DT = s.DT := rfl
@[simp] theorem State.fetchFault_ST : (s.fetchFault).ST = s.ST := rfl
@[simp] theorem State.fetchFault_pixels : (s.fetchFault).pixels = s.pixels := rfl
@[simp] theorem State.fetchFault_key : (s.fetchFault).key = s.key := rfl
@[simp] theorem State.fetchFault_released : (s.fetchFault).released = s.released := rfl
@[simp] theorem State.fetchFault_fault : (s.fetchFault).fault = some { cause := .fetchOutOfRange, fpc := s.pc, fword := 0x0000 } := rfl
@[simp] theorem State.fetchFault_rnd : (s.fetchFault).rnd = s.rnd := rfl
@[simp] theorem State.fetchFault_draws : (s.fetchFault).draws = s.draws := rfl
@[simp] theorem State.fetchFault_diag : (s.fetchFault).diag = none := rfl
@[simp] theorem State.fetchFault_loadResult : (s.fetchFault).loadResult = s.loadResult := rfl
@[simp] theorem State.fetchFault_schedule : (s.fetchFault).schedule = s.schedule := rfl
@[simp] theorem State.fetchFault_byteAt (a' : Nat) : (s.fetchFault).byteAt a' = s.byteAt a' := rfl
@[simp] theorem State.fetchFault_reg (r' : Nibble) : (s.fetchFault).reg r' = s.reg r' := rfl
@[simp] theorem State.fetchFault_keyLevel (k' : Nibble) : (s.fetchFault).keyLevel k' = s.keyLevel k' := rfl
@[simp] theorem State.fetchFault_frame (k' : Nat) : (s.fetchFault).frame k' = s.frame k' := rfl

/-! `unknownTick` -/

@[simp] theorem State.unknownTick_cfg (r : Byte) (w : Word) : (s.unknownTick r w).cfg = s.cfg := rfl
@[simp] theorem State.unknownTick_mem (r : Byte) (w : Word) : (s.unknownTick r w).mem = s.mem := rfl
@[simp] theorem State.unknownTick_V (r : Byte) (w : Word) : (s.unknownTick r w).V = s.V := rfl
@[simp] theorem State.unknownTick_I (r : Byte) (w : Word) : (s.unknownTick r w).I = s.I := rfl
@[simp] theorem State.unknownTick_pc (r : Byte) (w : Word) : (s.unknownTick r w).pc = s.pc + 2 := rfl
@[simp] theorem State.unknownTick_stack (r : Byte) (w : Word) : (s.unknownTick r w).stack = s.stack := rfl
@[simp] theorem State.unknownTick_sp (r : Byte) (w : Word) : (s.unknownTick r w).sp = s.sp := rfl
@[simp] theorem State.unknownTick_DT (r : Byte) (w : Word) : (s.unknownTick r w).DT = s.DT := rfl
@[simp] theorem State.unknownTick_ST (r : Byte) (w : Word) : (s.unknownTick r w).ST = s.ST := rfl
@[simp] theorem State.unknownTick_pixels (r : Byte) (w : Word) : (s.unknownTick r w).pixels = s.pixels := rfl
@[simp] theorem State.unknownTick_key (r : Byte) (w : Word) : (s.unknownTick r w).key = s.key := rfl
@[simp] theorem State.unknownTick_released (r : Byte) (w : Word) : (s.unknownTick r w).released = if s.fault.isSome then s.released else [] := rfl
@[simp] theorem State.unknownTick_fault (r : Byte) (w : Word) : (s.unknownTick r w).fault = s.fault := rfl
@[simp] theorem State.unknownTick_rnd (r : Byte) (w : Word) : (s.unknownTick r w).rnd = 0x00 := rfl
@[simp] theorem State.unknownTick_draws (r : Byte) (w : Word) : (s.unknownTick r w).draws = s.draws := rfl
@[simp] theorem State.unknownTick_diag (r : Byte) (w : Word) : (s.unknownTick r w).diag = some { word := w, addr := s.pc } := rfl
@[simp] theorem State.unknownTick_loadResult (r : Byte) (w : Word) : (s.unknownTick r w).loadResult = s.loadResult := rfl
@[simp] theorem State.unknownTick_schedule (r : Byte) (w : Word) : (s.unknownTick r w).schedule = s.schedule := rfl
@[simp] theorem State.unknownTick_byteAt (r : Byte) (w : Word) (a' : Nat) : (s.unknownTick r w).byteAt a' = s.byteAt a' := rfl
@[simp] theorem State.unknownTick_reg (r : Byte) (w : Word) (r' : Nibble) : (s.unknownTick r w).reg r' = s.reg r' := rfl
@[simp] theorem State.unknownTick_keyLevel (r : Byte) (w : Word) (k' : Nibble) : (s.unknownTick r w).keyLevel k' = s.keyLevel k' := rfl
@[simp] theorem State.unknownTick_frame (r : Byte) (w : Word) (k' : Nat) : (s.unknownTick r w).frame k' = s.frame k' := rfl

/-! `tickTimers` -/

@[simp] theorem State.tickTimers_cfg : (s.tickTimers).cfg = s.cfg := rfl
@[simp] theorem State.tickTimers_mem : (s.tickTimers).mem = s.mem := rfl
@[simp] theorem State.tickTimers_V : (s.tickTimers).V = s.V := rfl
@[simp] theorem State.tickTimers_I : (s.tickTimers).I = s.I := rfl
@[simp] theorem State.tickTimers_pc : (s.tickTimers).pc = s.pc := rfl
@[simp] theorem State.tickTimers_stack : (s.tickTimers).stack = s.stack := rfl
@[simp] theorem State.tickTimers_sp : (s.tickTimers).sp = s.sp := rfl
@[simp] theorem State.tickTimers_DT : (s.tickTimers).DT = countDown s.DT := rfl
@[simp] theorem State.tickTimers_ST : (s.tickTimers).ST = countDown s.ST := rfl
@[simp] theorem State.tickTimers_pixels : (s.tickTimers).pixels = s.pixels := rfl
@[simp] theorem State.tickTimers_key : (s.tickTimers).key = s.key := rfl
@[simp] theorem State.tickTimers_released : (s.tickTimers).released = s.released := rfl
@[simp] theorem State.tickTimers_fault : (s.tickTimers).fault = s.fault := rfl
@[simp] theorem State.tickTimers_rnd : (s.tickTimers).rnd = s.rnd := rfl
@[simp] theorem State.tickTimers_draws : (s.tickTimers).draws = s.draws := rfl
@[simp] theorem State.tickTimers_diag : (s.tickTimers).diag = s.diag := rfl
@[simp] theorem State.tickTimers_loadResult : (s.tickTimers).loadResult = s.loadResult := rfl
@[simp] theorem State.tickTimers_schedule : (s.tickTimers).schedule = s.schedule := rfl
@[simp] theorem State.tickTimers_byteAt (a' : Nat) : (s.tickTimers).byteAt a' = s.byteAt a' := rfl
@[simp] theorem State.tickTimers_reg (r' : Nibble) : (s.tickTimers).reg r' = s.reg r' := rfl
@[simp] theorem State.tickTimers_keyLevel (k' : Nibble) : (s.tickTimers).keyLevel k' = s.keyLevel k' := rfl
@[simp] theorem State.tickTimers_frame (k' : Nat) : (s.tickTimers).frame k' = s.frame k' := rfl

/-! `setKeyState` -/

@[simp] theorem State.setKeyState_cfg (k : Nibble) (l : KeyLevel) : (s.setKeyState k l).cfg = s.cfg := rfl
@[simp] theorem State.setKeyState_mem (k : Nibble) (l : KeyLevel) : (s.setKeyState k l).mem = s.mem := rfl
@[simp] theorem State.setKeyState_V (k : Nibble) (l : KeyLevel) : (s.setKeyState k l).V = s.V := rfl
@[simp] theorem State.setKeyState_I (k : Nibble) (l : KeyLevel) : (s.setKeyState k l).I = s.I := rfl
@[simp] theorem State.setKeyState_pc (k : Nibble) (l : KeyLevel) : (s.setKeyState k l).pc = s.pc := rfl
@[simp] theorem State.setKeyState_stack (k : Nibble) (l : KeyLevel) : (s.setKeyState k l).stack = s.stack := rfl
@[simp] theorem State.setKeyState_sp (k : Nibble) (l : KeyLevel) : (s.setKeyState k l).sp = s.sp := rfl
@[simp] theorem State.setKeyState_DT (k : Nibble) (l : KeyLevel) : (s.setKeyState k l).DT = s.DT := rfl
@[simp] theorem State.setKeyState_ST (k : Nibble) (l : KeyLevel) : (s.setKeyState k l).ST = s.ST := rfl
@[simp] theorem State.setKeyState_pixels (k : Nibble) (l : KeyLevel) : (s.setKeyState k l).pixels = s.pixels := rfl
@[simp] theorem State.setKeyState_key (k : Nibble) (l : KeyLevel) : (s.setKeyState k l).key = s.key.set k.val l := rfl
@[simp] theorem State.setKeyState_released (k : Nibble) (l : KeyLevel) : (s.setKeyState k l).released = if s.keyLevel k = .down ∧ l = .up then s.released ++ [k] else s.released := rfl
@[simp] theorem State.setKeyState_fault (k : Nibble) (l : KeyLevel) : (s.setKeyState k l).fault = s.fault := rfl
@[simp] theorem State.setKeyState_rnd (k : Nibble) (l : KeyLevel) : (s.setKeyState k l).rnd = s.rnd := rfl
@[simp] theorem State.setKeyState_draws (k : Nibble) (l : KeyLevel) : (s.setKeyState k l).draws = s.draws := rfl
@[simp] theorem State.setKeyState_diag (k : Nibble) (l : KeyLevel) : (s.setKeyState k l).diag = s.diag := rfl
@[simp] theorem State.setKeyState_loadResult (k : Nibble) (l : KeyLevel) : (s.setKeyState k l).loadResult = s.loadResult := rfl
@[simp] theorem State.setKeyState_schedule (k : Nibble) (l : KeyLevel) : (s.setKeyState k l).schedule = s.schedule := rfl
@[simp] theorem State.setKeyState_byteAt (k : Nibble) (l : KeyLevel) (a' : Nat) : (s.setKeyState k l).byteAt a' = s.byteAt a' := rfl
@[simp] theorem State.setKeyState_reg (k : Nibble) (l : KeyLevel) (r' : Nibble) : (s.setKeyState k l).reg r' = s.reg r' := rfl
@[simp] theorem State.setKeyState_frame (k : Nibble) (l : KeyLevel) (k' : Nat) : (s.setKeyState k l).frame k' = s.frame k' := rfl

/-! `resetAll` -/

@[simp] theorem State.resetAll_cfg : (s.resetAll).cfg = s.cfg := rfl
@[simp] theorem State.resetAll_mem : (s.resetAll).mem = State.reset.mem := rfl
@[simp] theorem State.resetAll_V : (s.resetAll).V = State.reset.V := rfl
@[simp] theorem State.resetAll_I : (s.resetAll).I = State.reset.I := rfl
@[simp] theorem State.resetAll_pc : (s.resetAll).pc = State.reset.pc := rfl
@[simp] theorem State.resetAll_stack : (s.resetAll).stack = State.reset.stack := rfl
@[simp] theorem State.resetAll_sp : (s.resetAll).sp = State.reset.sp := rfl
@[simp] theorem State.resetAll_DT : (s.resetAll).DT = State.reset.DT := rfl
@[simp] theorem State.resetAll_ST : (s.resetAll).ST = State.reset.ST := rfl
@[simp] theorem State.resetAll_pixels : (s.resetAll).pixels = State.reset.pixels := rfl
@[simp] theorem State.resetAll_key : (s.resetAll).key = State.reset.key := rfl
@[simp] theorem State.resetAll_released : (s.resetAll).released = State.reset.released := rfl
@[simp] theorem State.resetAll_fault : (s.resetAll).fault = State.reset.fault := rfl
@[simp] theorem State.resetAll_rnd : (s.resetAll).rnd = State.reset.rnd := rfl
@[simp] theorem State.resetAll_draws : (s.resetAll).draws = s.draws := rfl
@[simp] theorem State.resetAll_diag : (s.resetAll).diag = State.reset.diag := rfl
@[simp] theorem State.resetAll_loadResult : (s.resetAll).loadResult = State.reset.loadResult := rfl
@[simp] theorem State.resetAll_schedule : (s.resetAll).schedule = s.schedule := rfl

end Sys2Proof.Machine
end

