-- ==== Sys2Proof/Laws/Memory.lean ====
section
/-! SUPPORT. Memory: a read after a write, and that every memory operation keeps the canonical form. -/

namespace Sys2Proof.Machine

variable {c : Config} {m : Memory}

/-- Every address of a memory is above `a`. -/
abbrev Memory.above (a : Nat) (m : Memory) : Prop := ∀ p ∈ m, a < p.1

theorem Memory.lookup_eq_none_of_above {a : Nat} (h : Memory.above a m) : Memory.lookup m a = none := by
  induction m with
  | nil => rfl
  | cons p m ih =>
    have hp : a < p.1 := h p (by simp)
    simp only [Memory.lookup]
    rw [if_neg (by omega)]
    exact ih fun q hq => h q (by simp [hq])

theorem Memory.lookup_insert (a b : Nat) (x : Byte) :
    Memory.lookup (Memory.insert m a x) b = if b = a then some x else Memory.lookup m b := by
  induction m with
  | nil => rcases eq_or_ne a b with rfl | h <;> simp [Memory.insert, Memory.lookup, *, Ne.symm]
  | cons p m ih =>
    simp only [Memory.insert]
    split
    · rcases eq_or_ne a b with rfl | h <;> simp [Memory.lookup, *, Ne.symm]
    · split
      · next h =>
        subst h
        rcases eq_or_ne p.1 b with h | h
        · simp [Memory.lookup, h]
        · simp [Memory.lookup, h, h.symm]
      · next h =>
        simp only [Memory.lookup, ih]
        rcases eq_or_ne p.1 b with h' | h'
        · rw [if_pos h', if_neg (by omega), if_pos h']
        · rw [if_neg h', if_neg h']

theorem Memory.insert_above {a b : Nat} {x : Byte} (h : Memory.above b m) (hb : b < a) :
    Memory.above b (Memory.insert m a x) := by
  induction m with
  | nil => simpa [Memory.above, Memory.insert] using hb
  | cons p m ih =>
    have hp : b < p.1 := h p (by simp)
    have hm : Memory.above b m := fun q hq => h q (by simp [hq])
    simp only [Memory.insert]
    split
    · simpa [Memory.above] using ⟨hb, hp, fun q y hq => hm (q, y) hq⟩
    · split
      · simpa [Memory.above] using ⟨hb, fun q y hq => hm (q, y) hq⟩
      · simpa [Memory.above] using ⟨hp, fun q y hq => ih hm (q, y) hq⟩

theorem Memory.mem_insert {a : Nat} {x : Byte} {p : Host.Cell} (h : p ∈ Memory.insert m a x) : p = (a, x) ∨ p ∈ m := by
  induction m with
  | nil => simpa [Memory.insert] using h
  | cons q m ih =>
    simp only [Memory.insert] at h
    split at h
    · simpa using h
    · split at h
      · simp only [List.mem_cons] at h ⊢; tauto
      · simp only [List.mem_cons] at h ⊢
        rcases h with h | h
        · exact .inr (.inl h)
        · rcases ih h with h | h <;> tauto

theorem Memory.mem_erase {a : Nat} {p : Host.Cell} (h : p ∈ Memory.erase m a) : p ∈ m := by
  induction m with
  | nil => exact h
  | cons q m ih =>
    simp only [Memory.erase] at h
    split at h
    · exact List.mem_cons_of_mem _ (ih h)
    · simp only [List.mem_cons] at h ⊢
      exact h.imp_right ih

theorem Memory.wf_cons {p : Host.Cell} :
    Memory.wf c (p :: m) ↔ Memory.above p.1 m ∧ (p.1 < memSize ∧ p.2 ≠ resetByte c p.1) ∧ Memory.wf c m := by
  simp only [Memory.wf, List.pairwise_cons, List.forall_mem_cons]
  tauto

theorem Memory.wf_insert {a : Nat} {x : Byte} (h : Memory.wf c m) (ha : a < memSize) (hx : x ≠ resetByte c a) :
    Memory.wf c (Memory.insert m a x) := by
  induction m with
  | nil => exact ⟨by simp [Memory.insert], by simpa [Memory.insert] using ⟨ha, hx⟩⟩
  | cons p m ih =>
    obtain ⟨hab, hp, hm⟩ := Memory.wf_cons.1 h
    simp only [Memory.insert]
    split
    · next hlt =>
      refine Memory.wf_cons.2 ⟨?_, ⟨ha, hx⟩, h⟩
      intro q hq
      rcases List.mem_cons.1 hq with rfl | hq
      · exact hlt
      · have := hab q hq; simp only at hlt ⊢; omega
    · split
      · next heq => subst heq; exact Memory.wf_cons.2 ⟨hab, ⟨ha, hx⟩, hm⟩
      · next h1 h2 => exact Memory.wf_cons.2 ⟨Memory.insert_above hab (by simp only at h1 h2 ⊢; omega), hp, ih hm⟩

theorem Memory.wf_erase {a : Nat} (h : Memory.wf c m) : Memory.wf c (Memory.erase m a) := by
  induction m with
  | nil => exact h
  | cons p m ih =>
    obtain ⟨hab, hp, hm⟩ := Memory.wf_cons.1 h
    simp only [Memory.erase]
    split
    · exact ih hm
    · exact Memory.wf_cons.2 ⟨fun q hq => hab q (Memory.mem_erase hq), hp, ih hm⟩

theorem Memory.lookup_erase (a b : Nat) :
    Memory.lookup (Memory.erase m a) b = if b = a then none else Memory.lookup m b := by
  induction m with
  | nil => simp [Memory.erase, Memory.lookup]
  | cons p m ih =>
    simp only [Memory.erase]
    split
    · next h =>
      subst h
      rcases eq_or_ne p.1 b with h | h
      · rw [ih, if_pos h.symm, if_pos h.symm]
      · simp [Memory.lookup, ih, h, h.symm]
    · next h =>
      simp only [Memory.lookup, ih]
      rcases eq_or_ne p.1 b with h' | h'
      · rw [if_pos h', if_neg (by omega), if_pos h']
      · rw [if_neg h', if_neg h']

/-- A memory in canonical form keeps it under a write in range. -/
theorem Memory.wf_write {a : Nat} {b : Byte} (h : Memory.wf c m) (ha : a < memSize) : Memory.wf c (Memory.write c m a b) := by
  simp only [Memory.write]
  split
  · exact Memory.wf_erase h
  · next hb => exact Memory.wf_insert h ha hb

/-- A read after a write: the value written at its address, the old value elsewhere. -/
theorem Memory.read_write (a b : Nat) (x : Byte) :
    Memory.read c (Memory.write c m a x) b = if b = a then x else Memory.read c m b := by
  simp only [Memory.read, Memory.write]
  split
  · next hx =>
    rw [Memory.lookup_erase]
    by_cases hb : b = a
    · simp [hb, hx]
    · simp [hb]
  · rw [Memory.lookup_insert]
    by_cases hb : b = a <;> simp [hb]

/-- A memory in canonical form keeps it under stores in range. -/
theorem Memory.wf_writeAll {bs : List Byte} {a : Nat} (h : Memory.wf c m) (ha : a + bs.length ≤ memSize) :
    Memory.wf c (Memory.writeAll c m a bs) := by
  induction bs generalizing m a with
  | nil => exact h
  | cons b bs ih =>
    simp only [List.length_cons] at ha
    exact ih (Memory.wf_write h (by omega)) (by omega)

/-- A read after stores from `a` on: the byte stored there, the old value elsewhere. -/
theorem Memory.read_writeAll (bs : List Byte) (a b : Nat) :
    Memory.read c (Memory.writeAll c m a bs) b
      = if a ≤ b ∧ b < a + bs.length then bs.getD (b - a) 0 else Memory.read c m b := by
  induction bs generalizing m a with
  | nil => simp only [Memory.writeAll, List.length_nil]; rw [if_neg (by omega)]
  | cons x bs ih =>
    rw [Memory.writeAll, ih, Memory.read_write, List.length_cons]
    by_cases h1 : b = a
    · subst h1
      rw [if_neg (by omega), if_pos rfl, if_pos (by omega)]
      simp
    · rw [if_neg h1]
      by_cases h2 : a + 1 ≤ b ∧ b < a + 1 + bs.length
      · rw [if_pos h2, if_pos (by omega), show b - a = (b - (a + 1)) + 1 by omega]
        simp
      · rw [if_neg h2, if_neg (by omega)]

/-- A byte read after `setBytes`. -/
theorem State.setBytes_byteAt (s : State) (a : Nat) (bs : List Byte) (b : Nat) :
    (s.setBytes a bs).byteAt b = if a ≤ b ∧ b < a + bs.length then bs.getD (b - a) 0 else s.byteAt b :=
  Memory.read_writeAll bs a b

theorem State.setBytes_wf {s : State} {a : Nat} {bs : List Byte} (h : Memory.wf s.cfg s.mem)
    (ha : a + bs.length ≤ memSize) : Memory.wf (s.setBytes a bs).cfg (s.setBytes a bs).mem :=
  Memory.wf_writeAll h ha

end Sys2Proof.Machine
end

