-- ==== Sys2Proof/Laws/Ops.lean ====
section
/-! SUPPORT. One lemma per shared operation: what a register, a frame or an index reads as after it, what it leaves alone,
and when fault entry is what it answers. -/

namespace Sys2Proof.Machine

variable {s t : State}

/-! ### Registers -/

theorem State.reg_setReg (s : State) (x r : Nibble) (b : Byte) :
    (s.setReg x b).reg r = if r = x then b else s.reg r := by
  simp only [State.reg, State.setReg, Vector.getElem_set, Fin.ext_iff, eq_comm]

@[simp] theorem State.reg_setReg_same (s : State) (x : Nibble) (b : Byte) : (s.setReg x b).reg x = b := by
  rw [State.reg_setReg, if_pos rfl]

theorem State.reg_setReg_ne {x r : Nibble} (h : r ≠ x) (b : Byte) : (s.setReg x b).reg r = s.reg r := by
  rw [State.reg_setReg, if_neg h]

/-- After result and flag, `VF` is the flag, whatever `x` is (42_alu.md R120). -/
@[simp] theorem State.reg_setResultFlag_flag (s : State) (x : Nibble) (b : Byte) (f : Bool) :
    (s.setResultFlag x b f).reg VF = flagByte f := State.reg_setReg_same _ _ _

theorem State.reg_setResultFlag_result {x : Nibble} (h : x ≠ VF) (b : Byte) (f : Bool) :
    (s.setResultFlag x b f).reg x = b := by
  rw [State.setResultFlag, State.reg_setReg_ne h, State.reg_setReg_same]

/-- A loaded register file reads memory up to `x` and the old registers above. -/
theorem State.reg_setRegs_fromMemory (s : State) (x r : Nibble) :
    (s.setRegs (s.regsFromMemory x)).reg r
      = if r ≤ x then s.byteAt (s.effectiveAddress r.val) else s.reg r := by
  simp only [State.setRegs, State.reg, State.regsFromMemory, Vector.getElem_ofFn, Fin.le_def]

/-! ### Frames of the call stack -/

theorem State.frame_eq_none (s : State) {k : Nat} (h : k = 0 ∨ 16 < k) : s.frame k = none := by
  simp only [State.frame]
  split
  · rfl
  · rw [Vector.getElem?_eq_none (by omega)]

theorem State.exists_frame (s : State) {k : Nat} (h1 : 1 ≤ k) (h2 : k ≤ 16) : ∃ w, s.frame k = some w := by
  simp only [State.frame]
  rw [if_neg (by omega), Vector.getElem?_eq_getElem (by omega)]
  exact ⟨_, rfl⟩

theorem State.frame_pushFrame (s : State) (w : Word) (h : s.sp.toNat < 16) (k : Nat) :
    (s.pushFrame w).frame k = if k = s.sp.toNat + 1 then some w else s.frame k := by
  simp only [State.frame, State.pushFrame_stack]
  by_cases hk : k = 0
  · rw [if_pos hk, if_neg (by omega), if_pos hk]
  · rw [if_neg hk, if_neg hk]
    by_cases hk' : k = s.sp.toNat + 1
    · rw [if_pos hk', hk', Nat.add_sub_cancel, Vector.getElem?_setIfInBounds_self_of_lt h]
    · rw [if_neg hk', Vector.getElem?_setIfInBounds_ne (by omega)]

/-! ### Indices -/

theorem nibbleOfByte_eq_some {b : Byte} {k : Nibble} (h : b.toNat = k.val) : nibbleOfByte b = some k := by
  simp only [nibbleOfByte]
  rw [dif_pos (by omega)]
  exact congrArg some (Fin.ext h)

theorem nibbleOfByte_eq_none {b : Byte} (h : 15 < b.toNat) : nibbleOfByte b = none := by
  simp only [nibbleOfByte]
  rw [dif_neg (by omega)]

theorem toNat_addrToWord (nnn : Addr) : (addrToWord nnn).toNat = nnn.toNat := by
  simp only [addrToWord, BitVec.toNat_setWidth]; omega

theorem toNat_byteToWord (b : Byte) : (byteToWord b).toNat = b.toNat := by
  simp only [byteToWord, BitVec.toNat_setWidth]; omega

/-! ### Frames of claims -/

theorem Frame.refl (s : State) (ps : List Piece) : Frame s s ps := by
  intro p _; cases p <;> simp [Piece.same]

theorem Piece.same_trans {p : Piece} {s t u : State} (h : p.same s t) (h' : p.same t u) : p.same s u := by
  cases p <;> simp only [Piece.same] at * <;> first | exact h'.trans h | exact fun a => (h' a).trans (h a)

theorem Frame.trans {s t u : State} {ps : List Piece} (h : Frame s t ps) (h' : Frame t u ps) : Frame s u ps :=
  fun p hp => Piece.same_trans (h p hp) (h' p hp)

theorem Frame.mono {ps qs : List Piece} (h : Frame s t ps) (hs : ps ⊆ qs) : Frame s t qs := fun p hp => h p fun h' => hp (hs h')

theorem State.setPc_Frame (s : State) (w : Word) : Frame s (s.setPc w) [.pc] := by
  intro p hp; cases p <;> simp [Piece.same] at hp ⊢

theorem State.setI_Frame (s : State) (w : Word) : Frame s (s.setI w) [.I] := by
  intro p hp; cases p <;> simp [Piece.same] at hp ⊢

theorem State.setDT_Frame (s : State) (b : Byte) : Frame s (s.setDT b) [.DT] := by
  intro p hp; cases p <;> simp [Piece.same] at hp ⊢

theorem State.setST_Frame (s : State) (b : Byte) : Frame s (s.setST b) [.ST] := by
  intro p hp; cases p <;> simp [Piece.same] at hp ⊢

theorem State.setPixels_Frame (s : State) (fb : Framebuffer) : Frame s (s.setPixels fb) [.pixels] := by
  intro p hp; cases p <;> simp [Piece.same] at hp ⊢

theorem State.setBytes_Frame (s : State) (a : Nat) (bs : List Byte) : Frame s (s.setBytes a bs) [.mem] := by
  intro p hp; cases p <;> simp [Piece.same] at hp ⊢

theorem State.pushFrame_Frame (s : State) (w : Word) : Frame s (s.pushFrame w) [.stack, .sp] := by
  intro p hp; cases p <;> simp [Piece.same] at hp ⊢

theorem State.popFrame_Frame (s : State) : Frame s s.popFrame [.sp] := by
  intro p hp; cases p <;> simp [Piece.same] at hp ⊢

theorem State.setReg_Frame (s : State) (x : Nibble) (b : Byte) : Frame s (s.setReg x b) [.reg x] := by
  intro p hp
  cases p with
  | reg r => exact State.reg_setReg_ne (by simpa using hp) b
  | _ => simp [Piece.same]

theorem State.setResultFlag_Frame (s : State) (x : Nibble) (b : Byte) (f : Bool) :
    Frame s (s.setResultFlag x b f) [.reg x, .reg VF] :=
  ((s.setReg_Frame x b).mono (by simp)).trans (((s.setReg x b).setReg_Frame VF _).mono (by simp))

theorem State.skipIf_Frame (s : State) (c : Bool) : Frame s (s.skipIf c) [.pc] := by
  cases c
  · exact Frame.refl _ _
  · exact State.setPc_Frame _ _

theorem State.skipIf_pc (s : State) (c : Bool) : (s.skipIf c).pc = if c then s.pc + 2 else s.pc := by
  cases c <;> rfl

/-! ### Fault entry -/

/-- Fault entry always answers, with the state R176 describes. -/
theorem exists_raise (c : FaultCause) (i : Instr) (s : State) : ∃ t, raise c i s = .next t ∧ Raised c i s t :=
  ⟨_, rfl, rfl, rfl, by intro p hp; cases p <;> simp [Piece.same] at hp ⊢ <;> intros <;> rfl⟩

theorem raise_eq_next {c : FaultCause} {i : Instr} (h : raise c i s = .next t) : Raised c i s t := by
  obtain ⟨u, hu, hr⟩ := exists_raise c i s
  rw [hu] at h; cases h; exact hr

/-- The range check, in range. -/
theorem checkedData_ok {a : Nat} (h : a ≤ 0xFFF) (i : Instr) (s d : State) : checkedData a i s d = .next d := by
  rw [checkedData, if_neg (by omega)]

/-- The range check, out of range. -/
theorem checkedData_out {a : Nat} (h : 0xFFF < a) (i : Instr) (s d : State) :
    checkedData a i s d = raise .dataOutOfRange i s := by
  rw [checkedData, if_pos h]

/-- Everything a range check can answer: the fault with the address out of range, or the work done with it in range. -/
theorem checkedData_cases {a : Nat} {i : Instr} {s d t : State} (h : checkedData a i s d = .next t) :
    (0xFFF < a ∧ Raised .dataOutOfRange i s t) ∨ (a ≤ 0xFFF ∧ t = d) := by
  rcases Nat.lt_or_ge 0xFFF a with ha | ha
  · rw [checkedData, if_pos ha] at h
    exact .inl ⟨ha, raise_eq_next h⟩
  · rw [checkedData_ok ha] at h
    cases h
    exact .inr ⟨ha, rfl⟩

end Sys2Proof.Machine
end

