-- ==== Sys2Proof/Laws/Cycle.lean ====
section
/-! SUPPORT. What a step can be: one lemma per way a tick goes (40_cycle_and_host_operations.md R91, R101), and that a
decoder rejects a word only as unknown. -/

namespace Sys2Proof.Machine

variable {s s' t : State} {r : Byte}

/-- A word the decoder rejects is rejected as the unknown word it is (30_encoding.md R75). -/
theorem decodeWord_error {w : Word} {e : Reject} (h : decodeWord w = .error e) : e = .unknownInstruction w := by
  simp only [decodeWord, decodeClass8, decodeClassF] at h
  split at h <;> (try split at h) <;> (try split at h) <;> (try split at h) <;> (try split at h) <;>
    (try split at h) <;> (try split at h) <;> (try split at h) <;> (try split at h) <;> (try split at h) <;>
    first | (cases h; done) | (cases h; rfl)

/-! ### The state a scheduled tick starts from -/

theorem TickNext.frame (h : TickNext s s' r) : Frame s s' [.schedule, .draws] := by
  rcases h with ⟨rest, -, rfl⟩ | ⟨-, -, rfl⟩ <;> intro p hp <;> cases p <;> simp [Piece.same] at hp ⊢ <;> intros <;> rfl

theorem TickNext.pc (h : TickNext s s' r) : s'.pc = s.pc := h.frame .pc (by decide)
theorem TickNext.fault (h : TickNext s s' r) : s'.fault = s.fault := h.frame .fault (by decide)
theorem TickNext.byteAt (h : TickNext s s' r) (a : Nat) : s'.byteAt a = s.byteAt a := h.frame .mem (by decide) a
theorem TickNext.wordAt (h : TickNext s s' r) (a : Nat) : s'.wordAt a = s.wordAt a := by
  simp only [State.wordAt, h.byteAt]

/-- The step of a state whose next operation is a tick. -/
theorem step_of_TickNext (h : TickNext s s' r) : step s = tick r s' := by
  rcases h with ⟨rest, hs, rfl⟩ | ⟨hs, rfl, rfl⟩ <;> simp only [step, hs, perform]

/-! ### The ways a tick goes -/

theorem tick_faulted (h : s.fault ≠ none) : tick r s = .next { s with diag := none } := by
  rw [tick, if_pos (Option.isSome_iff_ne_none.2 h)]

theorem fetch_eq_none (h : 0xFFE < s.pc.toNat) : fetch s = none := by rw [fetch, if_pos h]

theorem fetch_eq_some (h : s.pc.toNat ≤ 0xFFE) : fetch s = some (s.wordAt s.pc.toNat) := by
  rw [fetch, if_neg (by omega)]

theorem tick_fetchFault (h : s.fault = none) (hpc : 0xFFE < s.pc.toNat) : tick r s = .next s.fetchFault := by
  simp [tick, h, fetch_eq_none hpc]

theorem tick_decoded {i : Instr} (h : s.fault = none) (hpc : s.pc.toNat ≤ 0xFFE)
    (hi : decodeWord (s.wordAt s.pc.toNat) = .ok i) : tick r s = finishTick (exec i (s.beginTick r)) := by
  simp [tick, h, fetch_eq_some hpc, hi]

theorem tick_unknown {e : Reject} (h : s.fault = none) (hpc : s.pc.toNat ≤ 0xFFE)
    (hi : decodeWord (s.wordAt s.pc.toNat) = .error e) :
    tick r s = .next (s.unknownTick r (s.wordAt s.pc.toNat)) := by
  simp [tick, h, fetch_eq_some hpc, hi]

theorem finishTick_eq_next {o : Result} : finishTick o = .next t ↔ ∃ u, o = .next u ∧ t = u.endTick := by
  cases o <;> simp [finishTick, eq_comm]

/-- Everything a tick can answer with a next state. -/
theorem tick_cases (h : tick r s = .next t) :
    (s.fault ≠ none ∧ t = { s with diag := none }) ∨
    (s.fault = none ∧ 0xFFE < s.pc.toNat ∧ t = s.fetchFault) ∨
    (s.fault = none ∧ s.pc.toNat ≤ 0xFFE ∧
      decodeWord (s.wordAt s.pc.toNat) = .error (.unknownInstruction (s.wordAt s.pc.toNat)) ∧
      t = s.unknownTick r (s.wordAt s.pc.toNat)) ∨
    (s.fault = none ∧ s.pc.toNat ≤ 0xFFE ∧ ∃ i u, decodeWord (s.wordAt s.pc.toNat) = .ok i ∧
      exec i (s.beginTick r) = .next u ∧ t = u.endTick) := by
  by_cases hf : s.fault = none
  · rcases Nat.lt_or_ge 0xFFE s.pc.toNat with hpc | hpc
    · rw [tick_fetchFault hf hpc] at h
      cases h
      exact .inr (.inl ⟨hf, hpc, rfl⟩)
    · cases hd : decodeWord (s.wordAt s.pc.toNat) with
      | error e =>
        rw [tick_unknown hf hpc hd] at h
        cases h
        exact .inr (.inr (.inl ⟨hf, hpc, by rw [decodeWord_error hd], rfl⟩))
      | ok i =>
        rw [tick_decoded hf hpc hd, finishTick_eq_next] at h
        obtain ⟨u, hu, rfl⟩ := h
        exact .inr (.inr (.inr ⟨hf, hpc, i, u, rfl, hu, rfl⟩))
  · rw [tick_faulted hf] at h
    cases h
    exact .inl ⟨hf, rfl⟩

end Sys2Proof.Machine
end

