-- ==== Sys2Proof/Laws/Display.lean ====
section
/-! SUPPORT. The framebuffer through its pixels: the mask of a sprite, `old ^ mask`, and the collision. -/

namespace Sys2Proof.Machine

theorem Framebuffer.ext_pixel {fb gb : Framebuffer} (h : ∀ px py, fb.pixel px py = gb.pixel px py) : fb = gb := by
  refine Vector.ext fun py hpy => BitVec.eq_of_getMsbD_eq fun px _ => ?_
  simpa [Framebuffer.pixel, hpy] using h px py

theorem Framebuffer.pixel_off_grid (fb : Framebuffer) {px py : Nat} (h : 64 ≤ px ∨ 32 ≤ py) : fb.pixel px py = false := by
  simp only [Framebuffer.pixel]
  split
  · simp only [BitVec.getMsbD]; rw [decide_eq_false (by omega), Bool.false_and]
  · rfl

@[simp] theorem pixel_blankScreen (px py : Nat) : Framebuffer.pixel blankScreen px py = false := by
  simp only [Framebuffer.pixel, blankScreen, Vector.getElem_replicate]
  split <;> simp

theorem pixel_flip (fb m : Framebuffer) (px py : Nat) :
    (fb.flip m).pixel px py = (fb.pixel px py ^^ m.pixel px py) := by
  simp only [Framebuffer.pixel, Framebuffer.flip]
  split <;> simp

theorem getMsbD_noPixel (px : Nat) : (0 : BitVec 64).getMsbD px = false := by simp

/-- Bit by bit: columns `ox` to `ox + 7` carry the byte from its bit 7 down, and only columns 0 to 63 exist. -/
theorem getMsbD_spriteRow (b : Byte) (ox px : Nat) :
    (spriteRow b ox).getMsbD px = (decide (ox ≤ px ∧ px < ox + 8 ∧ px < 64) && b.getLsbD (7 - (px - ox))) := by
  simp only [spriteRow, BitVec.getMsbD, BitVec.getLsbD_ushiftRight, BitVec.getLsbD_shiftLeft, BitVec.getLsbD_setWidth]
  by_cases h : ox ≤ px ∧ px < ox + 8 ∧ px < 64
  · rw [show ox + (64 - 1 - px) - 56 = 7 - (px - ox) by omega]
    simp only [h, decide_true, and_self, Bool.true_and]
    rw [decide_eq_true (by omega), decide_eq_false (by omega), decide_eq_true (by omega)]
    simp
  · simp only [h, decide_false, Bool.false_and]
    by_cases h64 : px < 64
    · by_cases hlo : ox + (64 - 1 - px) < 56
      · simp [hlo]
      · by_cases hhi : ox + (64 - 1 - px) < 64
        · omega
        · simp [hhi]
    · simp [h64]

/-- The mask has a 1 bit exactly where the sprite lies on the grid. -/
theorem pixel_spriteMask (s : State) (ox oy n px py : Nat) :
    (s.spriteMask ox oy n).pixel px py = true ↔
      px < 64 ∧ py < 32 ∧ ox ≤ px ∧ px < ox + 8 ∧ oy ≤ py ∧ py < oy + n ∧
        (s.byteAt (s.effectiveAddress (py - oy))).getLsbD (7 - (px - ox)) = true := by
  simp only [Framebuffer.pixel, State.spriteMask]
  by_cases hpy : py < 32
  · rw [dif_pos hpy, Vector.getElem_ofFn]
    simp only
    by_cases hr : oy ≤ py ∧ py < oy + n
    · rw [if_pos hr, getMsbD_spriteRow]
      simp only [Bool.and_eq_true, decide_eq_true_eq]
      tauto
    · rw [if_neg hr]
      rw [getMsbD_noPixel]
      simp only [Bool.false_eq_true, false_iff]
      tauto
  · rw [dif_neg hpy]
    simp only [Bool.false_eq_true, false_iff]
    tauto

/-- The collision, pixel by pixel. -/
theorem collides_iff (fb m : Framebuffer) :
    collides fb m = true ↔ ∃ px py, px < 64 ∧ py < 32 ∧ fb.pixel px py = true ∧ m.pixel px py = true := by
  simp only [collides, List.any_eq_true, List.mem_finRange, true_and, bne_iff_ne, ne_eq]
  constructor
  · rintro ⟨py, h⟩
    by_contra hc
    refine h (BitVec.eq_of_getMsbD_eq fun px hpx => ?_)
    rw [BitVec.getMsbD_and, getMsbD_noPixel]
    by_contra hb
    refine hc ⟨px, py.val, hpx, py.isLt, ?_⟩
    simpa [Framebuffer.pixel] using hb
  · rintro ⟨px, py, hpx, hpy, h1, h2⟩
    refine ⟨⟨py, hpy⟩, fun h => ?_⟩
    simp only [Framebuffer.pixel, dif_pos hpy] at h1 h2
    have := congrArg (fun r => BitVec.getMsbD r px) h
    simp [h1, h2] at this

/-- A draw changes the pixels and `VF`, and nothing else. -/
theorem State.draw_Frame (s : State) (x y n : Nibble) : Frame s (s.draw x y n) [.pixels, .reg VF] :=
  ((State.setPixels_Frame _ _).mono (by simp)).trans ((State.setReg_Frame _ _ _).mono (by simp))

/-- What a draw keeps as data, memory and stack included. -/
theorem State.draw_same_data (s : State) (x y n : Nibble) :
    (s.draw x y n).cfg = s.cfg ∧ (s.draw x y n).mem = s.mem ∧ (s.draw x y n).stack = s.stack ∧
      (s.draw x y n).sp = s.sp ∧ (s.draw x y n).pc = s.pc := by
  simp [State.draw]

end Sys2Proof.Machine
end

