-- ==== Sys2Proof/WellFormed.lean ====
section
/-! DEFINITION. The range checks of the spec, on raw numbers: instruction fields (30_encoding.md R71, R73), a ROM image
(40_cycle_and_host_operations.md R97) and the font parameters (10_state.md R24). An `Instr` carries its bounds in its
operand types, so every `Instr` passes `Instr.wellFormed` (Laws/Encoding.lean `wellFormed_all`): the spec's "register
indices ... are always within the 4/12-bit fields" (R36). The checks refuse raw numbers, images and bases that no
operand, ROM or parameter may be. -/

namespace Sys2Proof

/-- A 4-bit field `x`, `y` or `n`, or a key number (R71, R96). -/
def nibbleOk (v : Nat) : Bool := decide (v < 16)

/-- The byte immediate `nn` (R71). -/
def byteOk (v : Nat) : Bool := decide (v < 256)

/-- The address immediate `nnn` (R71). -/
def addrOk (v : Nat) : Bool := decide (v < 4096)

/-- A ROM image that `load_rom` accepts (R97): at most 3584 bytes; the empty image is accepted. -/
def romOk (image : List Byte) : Bool := decide (image.length ≤ maxRomLen)

/-- A legal `FONT_BASE` (R24): the 80 bytes lie inside 0x000 to 0x1FF. -/
def fontBaseOk (base : Nat) : Bool := decide (base + 80 ≤ 0x200)

/-- Every operand of the instruction lies in its field. -/
def Instr.wellFormed : Instr → Bool
  | .cls | .ret => true
  | .jp nnn | .call nnn | .ldI nnn | .jpV0 nnn => addrOk nnn.toNat
  | .seByte x nn | .sneByte x nn | .ldByte x nn | .addByte x nn | .rnd x nn => nibbleOk x.val && byteOk nn.toNat
  | .seReg x y | .sneReg x y | .ldReg x y | .orReg x y | .andReg x y | .xorReg x y | .addReg x y | .subReg x y
  | .shr x y | .subnReg x y | .shl x y => nibbleOk x.val && nibbleOk y.val
  | .drw x y n => nibbleOk x.val && nibbleOk y.val && nibbleOk n.val
  | .skp x | .sknp x | .ldVxDT x | .ldVxK x | .ldDTVx x | .ldSTVx x | .addIVx x | .ldFVx x | .ldBVx x | .ldMemVx x
  | .ldVxMem x => nibbleOk x.val

end Sys2Proof
end

