-- ==== Sys2Proof/Laws/Encoding.lean ====
section
/-! SUPPORT. A formatted word as a number, its fields (30_encoding.md R71, R72), the masks of R74, and that operand types
carry the field bounds. -/

namespace Sys2Proof

theorem toNat_append_eq {v w : Nat} (a : BitVec v) (b : BitVec w) : (a ++ b).toNat = a.toNat * 2 ^ w + b.toNat := by
  rw [BitVec.toNat_append, ← Nat.shiftLeft_add_eq_or_of_lt b.isLt, Nat.shiftLeft_eq]

@[simp] theorem toNat_ofNibble (x : Nibble) : (BitVec.ofFin (w := 4) x).toNat = x.val := rfl

theorem toNat_formatNNN (op : BitVec 4) (nnn : Addr) : (formatNNN op nnn).toNat = op.toNat * 4096 + nnn.toNat :=
  toNat_append_eq op nnn

theorem toNat_formatXNN (op : BitVec 4) (x : Nibble) (nn : Byte) :
    (formatXNN op x nn).toNat = op.toNat * 4096 + x.val * 256 + nn.toNat := by
  refine (toNat_append_eq (op ++ BitVec.ofFin (w := 4) x) nn).trans ?_
  rw [toNat_append_eq, toNat_ofNibble x]
  omega

theorem toNat_formatXYN (op : BitVec 4) (x y n : Nibble) :
    (formatXYN op x y n).toNat = op.toNat * 4096 + x.val * 256 + y.val * 16 + n.val := by
  refine (toNat_append_eq (op ++ BitVec.ofFin (w := 4) x ++ BitVec.ofFin (w := 4) y) (BitVec.ofFin (w := 4) n)).trans ?_
  rw [toNat_append_eq, toNat_append_eq, toNat_ofNibble x, toNat_ofNibble y, toNat_ofNibble n]
  omega

theorem toNat_opField (w : Word) : (opField w).toNat = w.toNat / 4096 := by
  simp only [opField, BitVec.extractLsb'_toNat, Nat.shiftRight_eq_div_pow]; omega

theorem val_xField (w : Word) : (xField w).val = w.toNat / 256 % 16 := by
  simp only [xField, BitVec.val_toFin, BitVec.extractLsb'_toNat, Nat.shiftRight_eq_div_pow]

theorem val_yField (w : Word) : (yField w).val = w.toNat / 16 % 16 := by
  simp only [yField, BitVec.val_toFin, BitVec.extractLsb'_toNat, Nat.shiftRight_eq_div_pow]

theorem val_nField (w : Word) : (nField w).val = w.toNat % 16 := by
  simp only [nField, BitVec.val_toFin, BitVec.extractLsb'_toNat, Nat.shiftRight_eq_div_pow]; omega

theorem toNat_nnField (w : Word) : (nnField w).toNat = w.toNat % 256 := by
  simp only [nnField, BitVec.extractLsb'_toNat, Nat.shiftRight_eq_div_pow]; omega

theorem toNat_nnnField (w : Word) : (nnnField w).toNat = w.toNat % 4096 := by
  simp only [nnnField, BitVec.extractLsb'_toNat, Nat.shiftRight_eq_div_pow]; omega

theorem opField_formatNNN (op : BitVec 4) (nnn : Addr) : opField (formatNNN op nnn) = op := by
  apply BitVec.eq_of_toNat_eq; rw [toNat_opField, toNat_formatNNN]; omega

theorem nnnField_formatNNN (op : BitVec 4) (nnn : Addr) : nnnField (formatNNN op nnn) = nnn := by
  apply BitVec.eq_of_toNat_eq; rw [toNat_nnnField, toNat_formatNNN]; omega

theorem opField_formatXNN (op : BitVec 4) (x : Nibble) (nn : Byte) : opField (formatXNN op x nn) = op := by
  apply BitVec.eq_of_toNat_eq; rw [toNat_opField, toNat_formatXNN]; omega

theorem xField_formatXNN (op : BitVec 4) (x : Nibble) (nn : Byte) : xField (formatXNN op x nn) = x := by
  apply Fin.ext; rw [val_xField, toNat_formatXNN]; omega

theorem nnField_formatXNN (op : BitVec 4) (x : Nibble) (nn : Byte) : nnField (formatXNN op x nn) = nn := by
  apply BitVec.eq_of_toNat_eq; rw [toNat_nnField, toNat_formatXNN]; omega

theorem opField_formatXYN (op : BitVec 4) (x y n : Nibble) : opField (formatXYN op x y n) = op := by
  apply BitVec.eq_of_toNat_eq; rw [toNat_opField, toNat_formatXYN]; omega

theorem xField_formatXYN (op : BitVec 4) (x y n : Nibble) : xField (formatXYN op x y n) = x := by
  apply Fin.ext; rw [val_xField, toNat_formatXYN]; omega

theorem yField_formatXYN (op : BitVec 4) (x y n : Nibble) : yField (formatXYN op x y n) = y := by
  apply Fin.ext; rw [val_yField, toNat_formatXYN]; omega

theorem nField_formatXYN (op : BitVec 4) (x y n : Nibble) : nField (formatXYN op x y n) = n := by
  apply Fin.ext; rw [val_nField, toNat_formatXYN]; omega

/-- A word is its two bytes, high byte first. -/
theorem wordOfBytes_halves (w : Word) : wordOfBytes (w.extractLsb' 8 8) (w.extractLsb' 0 8) = w := by
  apply BitVec.eq_of_toNat_eq
  refine (toNat_append_eq _ _).trans ?_
  simp only [BitVec.extractLsb'_toNat, Nat.shiftRight_eq_div_pow]
  omega

theorem wordOfBytes_toNat (hi lo : Byte) : (wordOfBytes hi lo).toNat = hi.toNat * 256 + lo.toNat :=
  toNat_append_eq hi lo

/-! ### The masks of the opcode map (R74), field by field -/

theorem op_nnn (w : Word) : opField w ++ nnnField w = w := by
  apply BitVec.eq_of_toNat_eq
  refine (toNat_append_eq _ _).trans ?_
  rw [toNat_opField, toNat_nnnField]; omega

/-- Mask 0xF000: the word's class. -/
theorem and_mask_op (w : Word) (op : BitVec 4) : w &&& 0xF000 = op ++ 0#12 ↔ opField w = op := by
  have e : w &&& 0xF000 = opField w ++ 0#12 := by
    conv_lhs => rw [← op_nnn w, show (0xF000 : Word) = BitVec.allOnes 4 ++ 0#12 from rfl]
    exact BitVec.and_append.trans (by rw [BitVec.and_allOnes, BitVec.and_zero])
  rw [e]
  refine ⟨fun h => ?_, fun h => by rw [h]⟩
  apply BitVec.eq_of_toNat_eq
  have := congrArg BitVec.toNat h
  rw [toNat_append_eq (opField w) 0#12, toNat_append_eq op 0#12] at this
  omega

theorem op_x_nn (w : Word) : opField w ++ BitVec.ofFin (w := 4) (xField w) ++ nnField w = w := by
  refine Eq.trans ?_ (op_nnn w)
  apply BitVec.eq_of_toNat_eq
  refine ((toNat_append_eq _ _).trans ?_).trans (toNat_append_eq _ _).symm
  rw [toNat_append_eq, toNat_ofNibble (xField w), val_xField, toNat_nnField, toNat_nnnField]; omega

/-- Mask 0xF0FF: the word's class and low byte. -/
theorem and_mask_nn (w : Word) (op : BitVec 4) (nn : Byte) :
    w &&& 0xF0FF = op ++ 0#4 ++ nn ↔ opField w = op ∧ nnField w = nn := by
  have e : w &&& 0xF0FF = opField w ++ 0#4 ++ nnField w := by
    conv_lhs => rw [← op_x_nn w, show (0xF0FF : Word) = BitVec.allOnes 4 ++ 0#4 ++ BitVec.allOnes 8 from rfl]
    exact BitVec.and_append.trans (by rw [BitVec.and_append, BitVec.and_allOnes, BitVec.and_zero, BitVec.and_allOnes])
  rw [e]
  refine ⟨fun h => ?_, fun h => by rw [h.1, h.2]⟩
  have := congrArg BitVec.toNat h
  rw [toNat_append_eq (opField w ++ 0#4) (nnField w), toNat_append_eq (op ++ 0#4) nn, toNat_append_eq (opField w) 0#4,
    toNat_append_eq op 0#4] at this
  constructor <;> apply BitVec.eq_of_toNat_eq <;> omega

theorem op_x_y_n (w : Word) : opField w ++ BitVec.ofFin (w := 4) (xField w) ++ BitVec.ofFin (w := 4) (yField w)
    ++ BitVec.ofFin (w := 4) (nField w) = w := by
  refine Eq.trans ?_ (op_nnn w)
  apply BitVec.eq_of_toNat_eq
  refine ((toNat_append_eq _ _).trans ?_).trans (toNat_append_eq _ _).symm
  rw [toNat_append_eq, toNat_append_eq, toNat_ofNibble (xField w), toNat_ofNibble (yField w), toNat_ofNibble (nField w), val_xField, val_yField, val_nField, toNat_nnnField]; omega

/-- Mask 0xF00F: the word's class and low nibble. -/
theorem and_mask_n (w : Word) (op : BitVec 4) (n : Nibble) :
    w &&& 0xF00F = op ++ 0#4 ++ 0#4 ++ BitVec.ofFin (w := 4) n ↔ opField w = op ∧ nField w = n := by
  have e : w &&& 0xF00F = opField w ++ 0#4 ++ 0#4 ++ BitVec.ofFin (w := 4) (nField w) := by
    conv_lhs => rw [← op_x_y_n w,
      show (0xF00F : Word) = BitVec.allOnes 4 ++ 0#4 ++ 0#4 ++ BitVec.allOnes 4 from rfl]
    exact BitVec.and_append.trans (by
      rw [BitVec.and_append, BitVec.and_append, BitVec.and_allOnes, BitVec.and_zero, BitVec.and_zero, BitVec.and_allOnes])
  rw [e]
  refine ⟨fun h => ?_, fun h => by rw [h.1, h.2]⟩
  have := congrArg BitVec.toNat h
  rw [toNat_append_eq (opField w ++ 0#4 ++ 0#4) (BitVec.ofFin (w := 4) (nField w)),
    toNat_append_eq (op ++ 0#4 ++ 0#4) (BitVec.ofFin (w := 4) n), toNat_append_eq (opField w ++ 0#4) 0#4,
    toNat_append_eq (op ++ 0#4) 0#4, toNat_append_eq (opField w) 0#4, toNat_append_eq op 0#4, toNat_ofNibble (nField w),
    toNat_ofNibble n] at this
  constructor
  · apply BitVec.eq_of_toNat_eq; omega
  · apply Fin.ext; omega

/-- Every instruction passes the field checks: its operand types carry the bounds. -/
theorem wellFormed_all (i : Instr) : i.wellFormed = true := by
  cases i <;> simp [Instr.wellFormed, nibbleOk, byteOk, addrOk, Fin.is_lt] <;> omega

end Sys2Proof
end

