-- ==== Sys2Proof/Laws/Exec.lean ====
section
/-! SUPPORT. What an instruction's meaning can answer, said once for all of them. -/

namespace Sys2Proof.Machine

/-- Whatever instruction answers a next state: it raised the fault of its row of the table (60_exceptions.md R173), or the
table gives none and the latch and everything no instruction writes are as before. -/
theorem exec_cases {i : Instr} {s t : State} (h : exec i s = .next t) :
    (∃ c, Raised c i s t ∧ faultCode i s = some c.code) ∨
    (faultCode i s = none ∧ t.fault = s.fault ∧ t.cfg = s.cfg ∧ t.key = s.key ∧ t.diag = s.diag ∧ t.rnd = s.rnd ∧
      t.draws = s.draws ∧ t.loadResult = s.loadResult ∧ t.schedule = s.schedule ∧ t.released = s.released) := by
  cases i
  all_goals simp only [exec] at h
  case ret =>
    simp only [execRet] at h; simp only [faultCode]
    split at h
    · next h0 => left; exact ⟨_, raise_eq_next h, by rw [if_pos h0]; rfl⟩
    · next h0 =>
      right; split at h
      · cases h; rw [if_neg h0]; simp
      · cases h
  case call =>
    simp only [execCall] at h; simp only [faultCode]
    split at h
    · next h0 => left; exact ⟨_, raise_eq_next h, by rw [if_pos h0]; rfl⟩
    · next h0 =>
      right; split at h
      · cases h; rw [if_neg h0]; simp
      · cases h
  case skp x =>
    simp only [execSkp] at h; simp only [faultCode]
    rcases Nat.lt_or_ge 15 (s.reg x).toNat with hx | hx
    · rw [nibbleOfByte_eq_none hx] at h; left; exact ⟨_, raise_eq_next h, by rw [if_pos hx]; rfl⟩
    · rw [nibbleOfByte_eq_some (k := ⟨(s.reg x).toNat, by omega⟩) rfl] at h
      right; cases h; rw [if_neg (by omega)]; simp [State.skipIf]; split <;> simp
  case sknp x =>
    simp only [execSknp] at h; simp only [faultCode]
    rcases Nat.lt_or_ge 15 (s.reg x).toNat with hx | hx
    · rw [nibbleOfByte_eq_none hx] at h; left; exact ⟨_, raise_eq_next h, by rw [if_pos hx]; rfl⟩
    · rw [nibbleOfByte_eq_some (k := ⟨(s.reg x).toNat, by omega⟩) rfl] at h
      right; cases h; rw [if_neg (by omega)]; simp [State.skipIf]; split <;> simp
  case ldFVx x =>
    simp only [execLdFVx] at h; simp only [faultCode]
    rcases Nat.lt_or_ge 15 (s.reg x).toNat with hx | hx
    · rw [nibbleOfByte_eq_none hx] at h; left; exact ⟨_, raise_eq_next h, by rw [if_pos hx]; rfl⟩
    · rw [nibbleOfByte_eq_some (k := ⟨(s.reg x).toNat, by omega⟩) rfl] at h
      right; cases h; rw [if_neg (by omega)]; simp
  case ldBVx x =>
    rcases checkedData_cases h with ⟨h0, hr⟩ | ⟨h0, rfl⟩ <;> simp only [State.effectiveAddress] at h0 <;> simp only [faultCode]
    · left; exact ⟨_, hr, by rw [if_pos h0]; rfl⟩
    · right; rw [if_neg (by omega)]; simp
  case ldMemVx x =>
    rcases checkedData_cases h with ⟨h0, hr⟩ | ⟨h0, rfl⟩ <;> simp only [State.effectiveAddress] at h0 <;> simp only [faultCode]
    · left; exact ⟨_, hr, by rw [if_pos h0]; rfl⟩
    · right; rw [if_neg (by omega)]; simp
  case ldVxMem x =>
    rcases checkedData_cases h with ⟨h0, hr⟩ | ⟨h0, rfl⟩ <;> simp only [State.effectiveAddress] at h0 <;> simp only [faultCode]
    · left; exact ⟨_, hr, by rw [if_pos h0]; rfl⟩
    · right; rw [if_neg (by omega)]; simp
  case drw x y n =>
    simp only [execDrw] at h; simp only [faultCode]
    split at h
    · next h0 => right; cases h; rw [if_neg (by omega)]; simp [State.draw]
    · next hn =>
      rcases checkedData_cases h with ⟨h0, hr⟩ | ⟨h0, rfl⟩ <;> simp only [State.effectiveAddress] at h0
      · left; exact ⟨_, hr, by rw [if_pos (by omega)]; rfl⟩
      · right; rw [if_neg (by omega)]; simp [State.draw]
  case ldVxK x =>
    simp only [execLdVxK] at h
    right; split at h <;> cases h <;> simp [faultCode]
  case seByte => simp only [execSeByte] at h; cases h; right; simp [State.skipIf, faultCode]; split <;> simp
  case sneByte => simp only [execSneByte] at h; cases h; right; simp [State.skipIf, faultCode]; split <;> simp
  case seReg => simp only [execSeReg] at h; cases h; right; simp [State.skipIf, faultCode]; split <;> simp
  case sneReg => simp only [execSneReg] at h; cases h; right; simp [State.skipIf, faultCode]; split <;> simp
  all_goals (cases h; right; simp [faultCode, State.setResultFlag])

end Sys2Proof.Machine
end

