-- ==== Sys2Proof/Laws/PerInstr.lean ====
section
/-! SUPPORT. Per instruction: the encoded word lies in the instruction's own row of the opcode map (30_encoding.md R74). -/

namespace Sys2Proof.Laws.EncodingRow

/-- The word of `i` selects `i`'s row. -/
def Statement (i : Instr) : Prop := i.row.selects (encode i) = true

theorem selects_class_nnn (op : BitVec 4) (nnn : Addr) : OpcodeRow.selects ⟨0xF000, op ++ 0x000#12⟩ (formatNNN op nnn) = true := by
  have h : (op ++ nnn) &&& (0xF#4 ++ 0x000#12) = op ++ 0x000#12 := by
    rw [BitVec.and_append, BitVec.and_zero, show 0xF#4 = BitVec.allOnes 4 by decide, BitVec.and_allOnes]
  exact beq_iff_eq.2 h

theorem selects_x (op : BitVec 4) (x : Nibble) (nn : Byte) :
    OpcodeRow.selects ⟨0xF0FF, op ++ 0x0#4 ++ nn⟩ (formatXNN op x nn) = true := by
  have h : (op ++ BitVec.ofFin (w := 4) x ++ nn) &&& (0xF#4 ++ 0x0#4 ++ 0xFF#8) = op ++ 0x0#4 ++ nn := by
    rw [BitVec.and_append, BitVec.and_append, BitVec.and_zero, show 0xF#4 = BitVec.allOnes 4 by decide,
      show 0xFF#8 = BitVec.allOnes 8 by decide, BitVec.and_allOnes, BitVec.and_allOnes]
  exact beq_iff_eq.2 h

theorem selects_class_xnn (op : BitVec 4) (x : Nibble) (nn : Byte) :
    OpcodeRow.selects ⟨0xF000, op ++ 0x0#4 ++ 0x00#8⟩ (formatXNN op x nn) = true := by
  have h : (op ++ BitVec.ofFin (w := 4) x ++ nn) &&& (0xF#4 ++ 0x0#4 ++ 0x00#8) = op ++ 0x0#4 ++ 0x00#8 := by
    rw [BitVec.and_append, BitVec.and_append, BitVec.and_zero, BitVec.and_zero, show 0xF#4 = BitVec.allOnes 4 by decide,
      BitVec.and_allOnes]
  exact beq_iff_eq.2 h

theorem selects_xy (op : BitVec 4) (x y n : Nibble) :
    OpcodeRow.selects ⟨0xF00F, op ++ 0x0#4 ++ 0x0#4 ++ BitVec.ofFin (w := 4) n⟩ (formatXYN op x y n) = true := by
  have h : (op ++ BitVec.ofFin (w := 4) x ++ BitVec.ofFin (w := 4) y ++ BitVec.ofFin (w := 4) n)
      &&& (0xF#4 ++ 0x0#4 ++ 0x0#4 ++ 0xF#4) = op ++ 0x0#4 ++ 0x0#4 ++ BitVec.ofFin (w := 4) n := by
    rw [BitVec.and_append, BitVec.and_append, BitVec.and_append, BitVec.and_zero, BitVec.and_zero,
      show 0xF#4 = BitVec.allOnes 4 by decide, BitVec.and_allOnes, BitVec.and_allOnes]
  exact beq_iff_eq.2 h

theorem selects_class_xyn (op : BitVec 4) (x y n : Nibble) :
    OpcodeRow.selects ⟨0xF000, op ++ 0x0#4 ++ 0x0#4 ++ 0x0#4⟩ (formatXYN op x y n) = true := by
  have h : (op ++ BitVec.ofFin (w := 4) x ++ BitVec.ofFin (w := 4) y ++ BitVec.ofFin (w := 4) n)
      &&& (0xF#4 ++ 0x0#4 ++ 0x0#4 ++ 0x0#4) = op ++ 0x0#4 ++ 0x0#4 ++ 0x0#4 := by
    rw [BitVec.and_append, BitVec.and_append, BitVec.and_append, BitVec.and_zero, BitVec.and_zero, BitVec.and_zero,
      show 0xF#4 = BitVec.allOnes 4 by decide, BitVec.and_allOnes]
  exact beq_iff_eq.2 h

theorem cls : Statement .cls := rfl
theorem ret : Statement .ret := rfl
theorem jp (nnn : Addr) : Statement (.jp nnn) := selects_class_nnn _ nnn
theorem call (nnn : Addr) : Statement (.call nnn) := selects_class_nnn _ nnn
theorem seByte (x : Nibble) (nn : Byte) : Statement (.seByte x nn) := selects_class_xnn _ x nn
theorem sneByte (x : Nibble) (nn : Byte) : Statement (.sneByte x nn) := selects_class_xnn _ x nn
theorem seReg (x : Nibble) (y : Nibble) : Statement (.seReg x y) := selects_xy _ x y _
theorem sneReg (x : Nibble) (y : Nibble) : Statement (.sneReg x y) := selects_xy _ x y _
theorem ldByte (x : Nibble) (nn : Byte) : Statement (.ldByte x nn) := selects_class_xnn _ x nn
theorem addByte (x : Nibble) (nn : Byte) : Statement (.addByte x nn) := selects_class_xnn _ x nn
theorem ldReg (x : Nibble) (y : Nibble) : Statement (.ldReg x y) := selects_xy _ x y _
theorem orReg (x : Nibble) (y : Nibble) : Statement (.orReg x y) := selects_xy _ x y _
theorem andReg (x : Nibble) (y : Nibble) : Statement (.andReg x y) := selects_xy _ x y _
theorem xorReg (x : Nibble) (y : Nibble) : Statement (.xorReg x y) := selects_xy _ x y _
theorem addReg (x : Nibble) (y : Nibble) : Statement (.addReg x y) := selects_xy _ x y _
theorem subReg (x : Nibble) (y : Nibble) : Statement (.subReg x y) := selects_xy _ x y _
theorem shr (x : Nibble) (y : Nibble) : Statement (.shr x y) := selects_xy _ x y _
theorem subnReg (x : Nibble) (y : Nibble) : Statement (.subnReg x y) := selects_xy _ x y _
theorem shl (x : Nibble) (y : Nibble) : Statement (.shl x y) := selects_xy _ x y _
theorem ldI (nnn : Addr) : Statement (.ldI nnn) := selects_class_nnn _ nnn
theorem jpV0 (nnn : Addr) : Statement (.jpV0 nnn) := selects_class_nnn _ nnn
theorem rnd (x : Nibble) (nn : Byte) : Statement (.rnd x nn) := selects_class_xnn _ x nn
theorem drw (x : Nibble) (y : Nibble) (n : Nibble) : Statement (.drw x y n) := selects_class_xyn _ x y n
theorem skp (x : Nibble) : Statement (.skp x) := selects_x _ x _
theorem sknp (x : Nibble) : Statement (.sknp x) := selects_x _ x _
theorem ldVxDT (x : Nibble) : Statement (.ldVxDT x) := selects_x _ x _
theorem ldVxK (x : Nibble) : Statement (.ldVxK x) := selects_x _ x _
theorem ldDTVx (x : Nibble) : Statement (.ldDTVx x) := selects_x _ x _
theorem ldSTVx (x : Nibble) : Statement (.ldSTVx x) := selects_x _ x _
theorem addIVx (x : Nibble) : Statement (.addIVx x) := selects_x _ x _
theorem ldFVx (x : Nibble) : Statement (.ldFVx x) := selects_x _ x _
theorem ldBVx (x : Nibble) : Statement (.ldBVx x) := selects_x _ x _
theorem ldMemVx (x : Nibble) : Statement (.ldMemVx x) := selects_x _ x _
theorem ldVxMem (x : Nibble) : Statement (.ldVxMem x) := selects_x _ x _

end Sys2Proof.Laws.EncodingRow
end

