-- ==== Sys2Proof/Tests/Slice0.lean ====
section
/-! SUPPORT. Tests. The expected values are the vectors of 95_test_vectors.md (each docstring names the part), the words are
written from the patterns of 30_encoding.md R74. The witnesses at the end show, for each obligation with hypotheses, values
that meet them, clause by clause and at the boundaries. -/

namespace Sys2Proof.Tests

open Sys2Proof Sys2Proof.Machine

/-! ### Helpers -/

/-- The reset state with one tick waiting. -/
def start : State := { State.reset with schedule := [.tick 0x00] }

/-- Some registers written. -/
def withRegs (l : List (Nibble × Byte)) (s : State) : State := l.foldl (fun s p => s.setReg p.1 p.2) s

/-- The next state, if there is one. -/
def nextOf : Result → Option State
  | .next t => some t
  | _ => none

/-- One step on the word. -/
def runWord (w : Nat) (s : State) : Option State := nextOf (step (s.withFetchWord 16 w))

/-- The registers asked for, after one step on the word. -/
def regsAfter (w : Nat) (s : State) (rs : List Nibble) : Option (List Byte) := (runWord w s).map fun t => rs.map t.reg

/-- `pc` after one step on the word. -/
def pcAfter (w : Nat) (s : State) : Option Word := (runWord w s).map State.pc

/-- The bytes at `a` to `a + n - 1` after one step on the word. -/
def bytesAfter (w : Nat) (s : State) (a n : Nat) : Option (List Byte) :=
  (runWord w s).map fun t => (List.range n).map fun k => t.byteAt (a + k)

/-- `VF` and some rows of the screen after one step on the word. -/
def screenAfter (w : Nat) (s : State) (rows : List (Fin 32)) : Option (Byte × List (BitVec 64)) :=
  (runWord w s).map fun t => (t.reg VF, rows.map fun r => t.pixels[r.val])

/-- The fault latch after one step on the word: cause, `fpc`, `fword`; and `pc`. -/
def faultAfter (w : Nat) (s : State) : Option (Option FaultRecord × Word) := (runWord w s).map fun t => (t.fault, t.pc)

/-- A sprite at 0x300, `I` at it, and the origin in `V0`, `V1`. -/
def sprite (bs : List Byte) (x y : Byte) : State := ((start.setI 0x0300).setBytes 0x300 bs).setReg 0 x |>.setReg 1 y

/-! ### Well-formedness: each check refuses the first value past its range and accepts the last one in it -/

theorem test_wellFormed_nibble : nibbleOk 16 = false ∧ nibbleOk 15 = true := by decide
theorem test_wellFormed_byte : byteOk 256 = false ∧ byteOk 255 = true := by decide
theorem test_wellFormed_addr : addrOk 4096 = false ∧ addrOk 4095 = true := by decide
theorem test_wellFormed_fontBase : fontBaseOk 0x1B1 = false ∧ fontBaseOk 0x1B0 = true := by decide
theorem test_wellFormed_rom :
    romOk (List.replicate 3585 0xAA) = false ∧ romOk (List.replicate 3584 0xAA) = true ∧ romOk [] = true := by
  refine ⟨?_, ?_, by decide⟩ <;> rw [romOk, List.length_replicate] <;> decide
theorem test_wellFormed_instr : Instr.wellFormed (.drw 15 15 15) = true ∧ Instr.wellFormed (.jp 0xFFF) = true := by decide

/-! ### Decoding: one word of every constructor, and words of no instruction (30_encoding.md R74, R76; 95 part 2.1) -/

theorem test_decode_class_0_1_2 :
    decodeTableWord 16 0x00E0 = some .cls ∧ decodeTableWord 16 0x00EE = some .ret ∧
    decodeTableWord 16 0x1ABC = some (.jp 0xABC) ∧ decodeTableWord 16 0x2DEF = some (.call 0xDEF) := by decide

theorem test_decode_skips :
    decodeTableWord 16 0x35A7 = some (.seByte 5 0xA7) ∧ decodeTableWord 16 0x4C01 = some (.sneByte 0xC 0x01) ∧
    decodeTableWord 16 0x5120 = some (.seReg 1 2) ∧ decodeTableWord 16 0x9AB0 = some (.sneReg 0xA 0xB) ∧
    decodeTableWord 16 0xE19E = some (.skp 1) ∧ decodeTableWord 16 0xE0A1 = some (.sknp 0) := by decide

theorem test_decode_class_6_7_8 :
    decodeTableWord 16 0x6A05 = some (.ldByte 0xA 0x05) ∧ decodeTableWord 16 0x71FF = some (.addByte 1 0xFF) ∧
    decodeTableWord 16 0x8120 = some (.ldReg 1 2) ∧ decodeTableWord 16 0x8341 = some (.orReg 3 4) ∧
    decodeTableWord 16 0x8562 = some (.andReg 5 6) ∧ decodeTableWord 16 0x8783 = some (.xorReg 7 8) ∧
    decodeTableWord 16 0x8124 = some (.addReg 1 2) ∧ decodeTableWord 16 0x89A5 = some (.subReg 9 0xA) ∧
    decodeTableWord 16 0x8AB6 = some (.shr 0xA 0xB) ∧ decodeTableWord 16 0x8CD7 = some (.subnReg 0xC 0xD) ∧
    decodeTableWord 16 0x8ABE = some (.shl 0xA 0xB) := by decide

theorem test_decode_class_A_to_D :
    decodeTableWord 16 0xA20E = some (.ldI 0x20E) ∧ decodeTableWord 16 0xB300 = some (.jpV0 0x300) ∧
    decodeTableWord 16 0xC30F = some (.rnd 3 0x0F) ∧ decodeTableWord 16 0xD12F = some (.drw 1 2 15) := by decide

theorem test_decode_class_F :
    decodeTableWord 16 0xF107 = some (.ldVxDT 1) ∧ decodeTableWord 16 0xF20A = some (.ldVxK 2) ∧
    decodeTableWord 16 0xF315 = some (.ldDTVx 3) ∧ decodeTableWord 16 0xF418 = some (.ldSTVx 4) ∧
    decodeTableWord 16 0xF51E = some (.addIVx 5) ∧ decodeTableWord 16 0xF629 = some (.ldFVx 6) ∧
    decodeTableWord 16 0xF733 = some (.ldBVx 7) ∧ decodeTableWord 16 0xF855 = some (.ldMemVx 8) ∧
    decodeTableWord 16 0xFF65 = some (.ldVxMem 0xF) := by decide

theorem test_decode_unknown :
    [0x00E1, 0x0000, 0x0123, 0x5121, 0x9ABF, 0x8AB8, 0x8ABF, 0xE19F, 0xF075, 0xFFFF].all
      (fun w => (decodeTableWord 16 w).isNone) = true := by decide

theorem test_decode_short : decode [0x12] = .error .truncated ∧ decode [0x12, 0x34, 0x56] = .ok (.jp 0x234, [0x56]) := by
  decide

/-! ### Control transfer (95 part 2.2) -/

theorem test_jp_self : pcAfter 0x1200 start = some 0x0200 := by decide
theorem test_jp_odd : pcAfter 0x1201 start = some 0x0201 := by decide
theorem test_call :
    (runWord 0x2400 { start with sp := 15 }).map (fun t => (t.sp, t.frame 16, t.pc, t.fault))
      = some (16, some 0x0202, 0x0400, none) := by decide
theorem test_call_overflow :
    faultAfter 0x2400 { start with sp := 16 } = some (some ⟨.stackOverflow, 0x0200, 0x2400⟩, 0x0200) := by decide
theorem test_ret :
    (runWord 0x00EE { start with sp := 2, stack := (start.stack.set 1 0x0456).set 0 0x0222 }).map
      (fun t => (t.pc, t.sp, t.frame 2)) = some (0x0456, 1, some 0x0456) := by decide
theorem test_ret_underflow : faultAfter 0x00EE start = some (some ⟨.stackUnderflow, 0x0200, 0x00EE⟩, 0x0200) := by decide
theorem test_seByte : pcAfter 0x3542 (withRegs [(5, 0x42)] start) = some 0x0204 := by decide
theorem test_seByte_no : pcAfter 0x3543 (withRegs [(5, 0x42)] start) = some 0x0202 := by decide
theorem test_sneByte : pcAfter 0x4543 (withRegs [(5, 0x42)] start) = some 0x0204 := by decide
theorem test_sneByte_no : pcAfter 0x4542 (withRegs [(5, 0x42)] start) = some 0x0202 := by decide
theorem test_seReg_same : pcAfter 0x5110 (withRegs [(1, 0x09)] start) = some 0x0204 := by decide
theorem test_seReg_no : pcAfter 0x5120 (withRegs [(1, 0x09), (2, 0x0A)] start) = some 0x0202 := by decide
theorem test_sneReg : pcAfter 0x9120 (withRegs [(1, 0x09), (2, 0x0A)] start) = some 0x0204 := by decide
theorem test_sneReg_same : pcAfter 0x9110 (withRegs [(1, 0x09)] start) = some 0x0202 := by decide
theorem test_jpV0_top : pcAfter 0xBFFF (withRegs [(0, 0xFF)] start) = some 0x10FE := by decide
theorem test_jpV0_not_V3 : pcAfter 0xB300 (withRegs [(3, 0x10)] start) = some 0x0300 := by decide

/-! ### Registers (95 parts 1 and 2.3) -/

theorem test_ldByte_flag : regsAfter 0x6F80 (withRegs [(15, 0x01)] start) [15] = some [0x80] := by decide
theorem test_addByte_wraps : regsAfter 0x7102 (withRegs [(1, 0xFF)] start) [1, 15] = some [0x01, 0x00] := by decide
theorem test_ldReg : regsAfter 0x8120 (withRegs [(2, 0x3C)] start) [1, 2] = some [0x3C, 0x3C] := by decide
theorem test_orReg :
    regsAfter 0x8121 (withRegs [(1, 0xF0), (2, 0x0C), (15, 0x01)] start) [1, 15] = some [0xFC, 0x01] := by decide
theorem test_andReg :
    regsAfter 0x8122 (withRegs [(1, 0xF0), (2, 0x3C), (15, 0x01)] start) [1, 15] = some [0x30, 0x01] := by decide
theorem test_xorReg :
    regsAfter 0x8123 (withRegs [(1, 0xF0), (2, 0x3C), (15, 0x01)] start) [1, 15] = some [0xCC, 0x01] := by decide
theorem test_addReg_carry : regsAfter 0x8124 (withRegs [(1, 0x80), (2, 0x80)] start) [1, 15] = some [0x00, 0x01] := by decide
theorem test_addReg_flag_operands :
    regsAfter 0x8F14 (withRegs [(1, 0x01), (15, 0xFF)] start) [15] = some [0x01] ∧
    regsAfter 0x81F4 (withRegs [(1, 0x03), (15, 0x05)] start) [1, 15] = some [0x08, 0x00] := by decide
theorem test_subReg_borrow : regsAfter 0x8125 (withRegs [(1, 0x03), (2, 0x05)] start) [1, 15] = some [0xFE, 0x00] := by decide
theorem test_subReg_equal : regsAfter 0x8125 (withRegs [(1, 0x07), (2, 0x07)] start) [1, 15] = some [0x00, 0x01] := by decide
theorem test_shr : regsAfter 0x8126 (withRegs [(1, 0x03), (2, 0xF0)] start) [1, 2, 15] = some [0x01, 0xF0, 0x01] := by decide
theorem test_shr_flag : regsAfter 0x8F06 (withRegs [(15, 0x03)] start) [15] = some [0x01] := by decide
theorem test_subnReg : regsAfter 0x8127 (withRegs [(1, 0x03), (2, 0x05)] start) [1, 15] = some [0x02, 0x01] := by decide
theorem test_subnReg_borrow : regsAfter 0x8127 (withRegs [(1, 0x01)] start) [1, 15] = some [0xFF, 0x00] := by decide
theorem test_shl : regsAfter 0x812E (withRegs [(1, 0x40), (2, 0xFF)] start) [1, 15] = some [0x80, 0x00] := by decide
theorem test_shl_out : regsAfter 0x810E (withRegs [(1, 0x81)] start) [1, 15] = some [0x02, 0x01] := by decide
theorem test_rnd : regsAfter 0xC30F { start with schedule := [.tick 0xA7] } [3] = some [0x07] := by decide

/-! ### Index and memory (95 part 2.4) -/

theorem test_ldI : (runWord 0xAFFF start).map State.I = some 0x0FFF := by decide
theorem test_addIVx_no_mask :
    (runWord 0xF11E (withRegs [(1, 0x01)] (start.setI 0x0FFF))).map (fun t => (t.I, t.reg VF)) = some (0x1000, 0x00) := by decide
theorem test_addIVx_wraps : (runWord 0xF11E (withRegs [(1, 0x02)] (start.setI 0xFFFF))).map State.I = some 0x0001 := by decide
theorem test_ldFVx : (runWord 0xFA29 (withRegs [(10, 0x0F)] start)).map State.I = some 0x009B := by decide
theorem test_ldFVx_fault :
    faultAfter 0xFA29 (withRegs [(10, 0x10)] start) = some (some ⟨.fontDigitOutOfRange, 0x0200, 0xFA29⟩, 0x0200) := by decide
theorem test_ldBVx_top : bytesAfter 0xF033 (withRegs [(0, 0xFF)] (start.setI 0x0FFD)) 0xFFD 3 = some [2, 5, 5] := by decide
theorem test_ldBVx_fault :
    faultAfter 0xF033 (withRegs [(0, 0xFF)] (start.setI 0x0FFE)) = some (some ⟨.dataOutOfRange, 0x0200, 0xF033⟩, 0x0200) ∧
    bytesAfter 0xF033 (withRegs [(0, 0xFF)] (start.setI 0x0FFE)) 0xFFE 2 = some [0, 0] := by decide
theorem test_ldMemVx :
    bytesAfter 0xF255 (withRegs [(0, 0x11), (1, 0x22), (2, 0x33), (3, 0x44)] (start.setI 0x0400)) 0x400 4
      = some [0x11, 0x22, 0x33, 0x00] := by decide
theorem test_ldMemVx_fault :
    bytesAfter 0xF155 (withRegs [(0, 0x99), (1, 0x88)] (start.setI 0x0FFF)) 0xFFF 1 = some [0x00] := by decide
theorem test_ldVxMem :
    regsAfter 0xF265 (withRegs [(3, 0xEE)] ((start.setI 0x0300).setBytes 0x300 [2, 3, 4, 5])) [0, 1, 2, 3]
      = some [2, 3, 4, 0xEE] := by decide
theorem test_ldVxMem_own_code_and_fault :
    regsAfter 0xF165 (start.setI 0x0200) [0, 1] = some [0xF1, 0x65] ∧
    faultAfter 0xF065 (start.setI 0x1000) = some (some ⟨.dataOutOfRange, 0x0200, 0xF065⟩, 0x0200) := by decide

/-! ### Display (95 parts 1 and 2.5): a row as its 64 pixels, the leftmost first -/

theorem test_cls :
    screenAfter 0x00E0 (withRegs [(15, 0x01)] (start.setPixels (Vector.replicate 32 1))) [0, 31] = some (1, [0, 0]) := by decide
theorem test_drw_wraps_origin_and_fault :
    screenAfter 0xD011 (sprite [0x80] 70 40) [8, 0] = some (0, [0x0200000000000000, 0]) ∧
    faultAfter 0xD012 (withRegs [(1, 31)] (start.setI 0x0FFF)) = some (some ⟨.dataOutOfRange, 0x0200, 0xD012⟩, 0x0200) := by
  decide
theorem test_drw_clips_and_collides :
    screenAfter 0xD012 (sprite [0xFF, 0xFF] 255 255) [31, 0] = some (0, [1, 0]) ∧
    screenAfter 0xD011 ((sprite [0x3C] 0 0).setPixels (start.pixels.set 0 0xF000000000000000)) [0]
      = some (1, [0xCC00000000000000]) := by decide

/-! ### Keypad and timers (95 part 2.6) -/

/-- Key 7 down, and its number in `V4`. -/
def key7 : State := withRegs [(4, 0x07)] { start with key := start.key.set 7 .down }

theorem test_skp : pcAfter 0xE49E key7 = some 0x0204 := by decide
theorem test_skp_fault :
    faultAfter 0xE49E (withRegs [(4, 0x10)] start) = some (some ⟨.keyIndexOutOfRange, 0x0200, 0xE49E⟩, 0x0200) := by decide
theorem test_sknp : pcAfter 0xE4A1 key7 = some 0x0202 := by decide
theorem test_sknp_up_and_fault :
    pcAfter 0xE4A1 (withRegs [(4, 0x07)] start) = some 0x0204 ∧
    faultAfter 0xE4A1 (withRegs [(4, 0xFF)] start) = some (some ⟨.keyIndexOutOfRange, 0x0200, 0xE4A1⟩, 0x0200) := by decide
theorem test_ldVxK_takes_oldest :
    (runWord 0xF50A { start with released := [3, 9] }).map (fun t => (t.reg 5, t.pc, t.released)) = some (3, 0x0202, []) := by
  decide
theorem test_ldVxK_waits : (runWord 0xF30A start).map (fun t => (t.reg 3, t.pc)) = some (0, 0x0200) := by decide
theorem test_ldVxDT : regsAfter 0xF307 (start.setDT 0x2A) [3] = some [0x2A] := by decide
theorem test_ldDTVx : (runWord 0xF015 (withRegs [(0, 0x3C)] start)).map State.DT = some 0x3C := by decide
theorem test_ldSTVx :
    (runWord 0xF018 (withRegs [(0, 0x03)] start)).map (fun t => (t.ST, t.shouldPlaySound)) = some (3, true) := by decide

/-! ### Ticks and host operations (95 parts 1, 2.2 and 2.7) -/

theorem test_unknown_word :
    (nextOf (step start)).map (fun t => (t.diag, t.pc, t.fault)) = some (some ⟨0x0000, 0x0200⟩, 0x0202, none) := by decide
theorem test_fetch_out_of_range :
    (nextOf (step { start with pc := 0x0FFF })).map (fun t => (t.fault, t.pc))
      = some (some ⟨.fetchOutOfRange, 0x0FFF, 0x0000⟩, 0x0FFF) := by decide
theorem test_faulted_tick_keeps_released :
    (nextOf (step { start with fault := some ⟨.stackUnderflow, 0x0200, 0x00EE⟩, released := [1] })).map
      (fun t => (t.released, t.pc)) = some ([1], 0x0200) := by decide
theorem test_tickTimers :
    (nextOf (step { start with DT := 0xFF, ST := 0x01, schedule := [.tickTimers] })).map
      (fun t => (t.DT, t.ST, t.shouldPlaySound)) = some (0xFE, 0x00, false) := by decide
theorem test_setKeyState_release :
    (nextOf (step { key7 with schedule := [.setKeyState 7 .up] })).map (fun t => (t.keyLevel 7, t.released))
      = some (.up, [7]) := by decide
theorem test_setKeyState_already_up :
    (nextOf (step { start with schedule := [.setKeyState 3 .up] })).map State.released = some [] := by decide
theorem test_loadRom :
    (nextOf (step { start with schedule := [.loadRom [0x12, 0x34]] })).map (fun t => (t.loadResult, t.wordAt 0x200))
      = some (some .ok, 0x1234) := by decide
theorem test_reset_clears_fault :
    (nextOf (step { key7 with DT := 2, fault := some ⟨.stackUnderflow, 0x0200, 0x00EE⟩, schedule := [.reset] })).map
      (fun t => (t.fault, t.DT, t.keyLevel 7)) = some (none, 0, .up) := by decide

/-! ### Witnesses: values that meet the hypotheses of each obligation -/

theorem witness_EncodeOfDecodeIsIdentity : decodeWord 0xFF65 = .ok (.ldVxMem 15) := by decide
theorem witness_DecodeSelectsOpcodeRow :
    (∃ j : Fin opcodeMap.length, opcodeMap[j].selects 0xF00A = true) ∧ decodeWord 0xF00A = .ok (.ldVxK 0) ∧ (Instr.row (.ldVxK 0) ∈ opcodeMap ∧ (Instr.row (.ldVxK 0)).selects 0xF00A = true) ∧
    ∀ r ∈ opcodeMap, r.selects 0x0000 = false := by decide
/-- Of the clause of `RegisterSkipsCompare` on `n` not 0, at both ends of its range. -/
theorem witness_RegisterSkipsCompare : (1 : Nibble) ≠ 0 ∧ (15 : Nibble) ≠ 0 := by decide
theorem witness_CallPushesReturnAddress :
    ({ start with sp := 0 } : State).sp.toNat < 16 ∧ ({ start with sp := 15 } : State).sp.toNat < 16 := by decide
theorem witness_ReturnPopsTopFrame : ∀ k : BitVec 8, k = 1 ∨ k = 16 → 1 ≤ ({ start with sp := k } : State).sp.toNat ∧
    ({ start with sp := k } : State).sp.toNat ≤ 16 := by rintro k (rfl | rfl) <;> decide
theorem witness_StackDepthViolationsFault :
    ({ start with sp := 16 } : State).sp = 16 ∧ start.sp = 0 ∧ 16 < ({ start with sp := 17 } : State).sp.toNat ∧
    16 < ({ start with sp := 255 } : State).sp.toNat := by decide
theorem witness_ReturnUndoesCall :
    ∃ s t t' : State, s.sp.toNat = 15 ∧ exec (.call 0x400) s = .next t ∧ t'.sp = t.sp ∧ t'.stack = t.stack ∧ t'.I ≠ t.I :=
  ⟨{ start with sp := 15 }, _, ((({ start with sp := 15 } : State).pushFrame 0x0200).setPc 0x400).setI 5, by decide, rfl,
    by decide, by decide, by decide⟩
theorem witness_FontAddressOrFault :
    ((withRegs [(3, 15)] start).reg 3).toNat ≤ 15 ∧ 15 < ((withRegs [(3, 16)] start).reg 3).toNat := by decide
theorem witness_DecimalStoreWritesThreeDigits :
    (start.setI 0x0FFD).effectiveAddress 2 ≤ 0xFFF ∧ 0xFFF < (start.setI 0x0FFE).effectiveAddress 2 := by decide
/-- Of `RegisterStoreWritesRange`, `RegisterLoadReadsRange`: `x = 0` and `x = 15` at the last address in range and the
first one out of it. -/
theorem witness_RegisterRanges :
    (start.setI 0x0FFF).effectiveAddress 0 ≤ 0xFFF ∧ 0xFFF < (start.setI 0x1000).effectiveAddress 0 ∧
    (start.setI 0x0FF0).effectiveAddress 15 ≤ 0xFFF ∧ 0xFFF < (start.setI 0x0FF1).effectiveAddress 15 := by decide
theorem witness_RegisterLoadUndoesStore :
    ∃ s t t' : State, s.effectiveAddress (15 : Nibble).val = 0xFFF ∧ exec (.ldMemVx 15) s = .next t ∧
      (∀ a, t'.byteAt a = t.byteAt a) ∧ t'.I = t.I ∧ t'.DT ≠ t.DT :=
  ⟨start.setI 0x0FF0, _, ((start.setI 0x0FF0).setBytes 0xFF0 ((start.setI 0x0FF0).regsUpTo 15)).setDT 7, by decide,
    checkedData_ok (a := (start.setI 0x0FF0).effectiveAddress 15) (by decide) (.ldMemVx 15) (start.setI 0x0FF0) _, fun _ => rfl, rfl, by decide⟩
theorem witness_StoredWordIsFetched :
    ∃ s t u : State, 1 ≤ (1 : Nibble).val ∧ s.effectiveAddress (1 : Nibble).val ≤ 0xFFF ∧ exec (.ldMemVx 1) s = .next t ∧
      (∀ a, u.byteAt a = t.byteAt a) ∧ u.pc = s.I :=
  ⟨start.setI 0x0202, _, ((start.setI 0x0202).setBytes 0x202 ((start.setI 0x0202).regsUpTo 1)).setPc 0x202, by decide,
    by decide, checkedData_ok (a := (start.setI 0x0202).effectiveAddress 1) (by decide) (.ldMemVx 1) (start.setI 0x0202) _, fun _ => rfl, rfl⟩
theorem witness_DrawInvertsSpritePixels :
    (0 : Nibble).val = 0 ∧ (start.setI 0x0FFF).effectiveAddress ((1 : Nibble).val - 1) ≤ 0xFFF ∧
    (start.setI 0x0FF1).effectiveAddress ((15 : Nibble).val - 1) ≤ 0xFFF ∧
    ((2 : Nibble).val ≠ 0 ∧ 0xFFF < (start.setI 0x0FFF).effectiveAddress ((2 : Nibble).val - 1)) := by decide
theorem witness_DrawTwiceRestoresPixels :
    ∃ t, (0 : Nibble) ≠ VF ∧ (1 : Nibble) ≠ VF ∧
      ((1 : Nibble).val = 0 ∨ (sprite [0xFF] 60 0).effectiveAddress ((1 : Nibble).val - 1) ≤ 0xFFF) ∧
      exec (.drw 0 1 1) (sprite [0xFF] 60 0) = .next t :=
  ⟨_, by decide, by decide, .inr (by decide),
    checkedData_ok (a := (sprite [0xFF] 60 0).effectiveAddress 0) (by decide) (.drw 0 1 1) (sprite [0xFF] 60 0) _⟩
theorem witness_KeySkipsTestTheLevel :
    ((withRegs [(4, 15)] start).reg 4).toNat = (15 : Nibble).val ∧ 15 < ((withRegs [(4, 16)] start).reg 4).toNat := by decide
theorem witness_KeyWaitTakesOldestRelease :
    ({ start with released := [15, 9] } : State).released = 15 :: [9] ∧ start.released = [] := by decide

/-- `start` has a tick next. -/
theorem start_TickNext : TickNext start { start with schedule := [] } 0x00 := .inl ⟨[], rfl, rfl⟩
/-- The reset state, with nothing waiting, has a tick next too, with a free byte. -/
theorem reset_TickNext :
    TickNext State.reset { State.reset with draws := 1 } (Config.randomByte 0) := .inr ⟨rfl, rfl, rfl⟩
/-- Any state has a tick next once one is put at the head of its schedule. -/
theorem TickNext_of_tick (s : State) : TickNext { s with schedule := [.tick 0x00] } { s with schedule := [] } 0x00 :=
  .inl ⟨[], rfl, rfl⟩

theorem witness_StepRunsDecodedInstruction :
    ∃ s s', TickNext s s' 0x00 ∧ s.fault = none ∧ s.pc.toNat ≤ 0xFFE ∧
      decode [s.byteAt s.pc.toNat, s.byteAt (s.pc.toNat + 1)] = .ok (.ldByte 10 0x01, []) ∧
      ∃ t, exec (.ldByte 10 0x01) { s' with pc := s.pc + 2, rnd := 0x00, diag := none } = .next t :=
  ⟨_, _, TickNext_of_tick ((start.setPc 0x0FFE).setBytes 0xFFE [0x6A, 0x01]), rfl, by decide, by decide, _, rfl⟩
theorem witness_UnknownWordIsDiagnosedNoOp :
    start.fault = none ∧ start.pc.toNat ≤ 0xFFE ∧
    decodeWord (start.wordAt start.pc.toNat) = .error (.unknownInstruction (start.wordAt start.pc.toNat)) := by decide
theorem witness_FetchOutOfRangeFaults :
    ∃ s s', TickNext s s' 0x00 ∧ s.fault = none ∧ 0xFFE < s.pc.toNat :=
  ⟨_, _, TickNext_of_tick (start.setPc 0x0FFF), rfl, by decide⟩
theorem witness_FaultedMachineTicksIdle : ∃ s s', TickNext s s' 0x00 ∧ s.fault ≠ none :=
  ⟨_, _, TickNext_of_tick { start with fault := some ⟨.stackUnderflow, 0x0200, 0x00EE⟩ }, by decide⟩
/-- Of `TickDrainsReleases`, `TickLeavesKeysAndDevices`: a key recorded, and a tick that answers. -/
theorem witness_TickDrainsReleases : ∃ s s' t, TickNext s s' 0x00 ∧ step s = .next t ∧ s.released = [3] :=
  ⟨_, _, _, TickNext_of_tick { start with released := [3] }, rfl, rfl⟩
/-- Of `FaultsArePrecise`, `TickRaisesExactlyTheTable`: `RET` on the empty stack. -/
theorem witness_FaultsArePrecise :
    ∃ s s' t, TickNext s s' 0x00 ∧ s.fault = none ∧ step s = .next t ∧ t.fault = some ⟨.stackUnderflow, 0x0200, 0x00EE⟩ :=
  ⟨_, _, _, TickNext_of_tick (start.setBytes 0x200 [0x00, 0xEE]), rfl, rfl, rfl⟩
theorem witness_OnlyResetClearsFault :
    ∃ s : State, s.fault = some ⟨.stackUnderflow, 0x0200, 0x00EE⟩ ∧ ∀ rest, s.schedule ≠ .reset :: rest :=
  ⟨{ start with fault := some ⟨.stackUnderflow, 0x0200, 0x00EE⟩ }, rfl, by intro rest h; cases h⟩
theorem witness_TimersCountDownToZero :
    ∀ b : Byte, ({ start with DT := b, ST := b, schedule := [.tickTimers] } : State).schedule = .tickTimers :: [] := fun _ => rfl
theorem witness_RepeatedTimerTicksFloorAtZero :
    ({ start with DT := 3, schedule := [.tickTimers, .tickTimers] } : State).schedule
      = List.replicate 2 .tickTimers ++ [] := rfl
theorem witness_KeyReleaseIsRecorded :
    ({ key7 with schedule := [.setKeyState 7 .up] } : State).schedule = .setKeyState 7 .up :: [] ∧
      ({ key7 with schedule := [.setKeyState 7 .up] } : State).keyLevel 7 = .down := by decide
theorem witness_PressAndReleaseCompletesKeyWait :
    ∃ s : State, s.fault = none ∧ s.pc.toNat ≤ 0xFFE ∧ decodeWord (s.wordAt s.pc.toNat) = .ok (.ldVxK 3) ∧
      s.released = [] ∧ s.keyLevel 15 = .up ∧
      s.schedule = .setKeyState 15 .down :: .setKeyState 15 .up :: .tick 0 :: [] :=
  ⟨{ (start.setBytes 0x200 [0xF3, 0x0A]) with schedule := [.setKeyState 15 .down, .setKeyState 15 .up, .tick 0] },
    rfl, by decide, by decide, rfl, by decide, rfl⟩
theorem witness_PressAndReleaseCompletesKeyWait_waits :
    ∃ s : State, s.fault = none ∧ s.pc.toNat ≤ 0xFFE ∧ decodeWord (s.wordAt s.pc.toNat) = .ok (.ldVxK 3) ∧
      s.released = [] ∧ s.keyLevel 15 = .up ∧ s.schedule = .tick 0 :: [] :=
  ⟨start.setBytes 0x200 [0xF3, 0x0A], rfl, by decide, by decide, rfl, by decide, rfl⟩
theorem witness_RomIsCopiedOrRefused :
    ∃ s : List Byte → State, (∀ b, (s b).schedule = .loadRom b :: []) ∧ (List.replicate 3584 (0xAA : Byte)).length ≤ 3584 ∧
      3584 < (List.replicate 3585 (0xAA : Byte)).length :=
  ⟨fun b => { start with schedule := [.loadRom b] }, fun _ => rfl, by rw [List.length_replicate],
    by rw [List.length_replicate]; decide⟩
theorem witness_FetchIsBigEndian_any : start.pc.toNat ≤ 0xFFE ∧ (start.setPc 0x0FFE).pc.toNat ≤ 0xFFE := by decide
theorem witness_FetchIsBigEndian_image :
    ∃ s t, s.schedule = .loadRom [0x12, 0x34] :: [] ∧ step s = .next t ∧ t.pc.toNat = 0x200 + 2 * 0 ∧ 2 * 0 + 1 < 2 :=
  ⟨{ start with schedule := [.loadRom [0x12, 0x34]] }, _, rfl, rfl, by decide, by decide⟩
theorem witness_ResetRestoresEveryValue :
    ({ key7 with I := 5, schedule := [.reset] } : State).schedule = .reset :: [] := rfl
/-- Of the invariant's statements: the reset state satisfies it, and its step answers. -/
theorem witness_Legal_reset : Legal State.reset := by
  refine ⟨⟨List.Pairwise.nil, fun p hp => absurd hp (List.not_mem_nil)⟩, by decide, by decide, fun k w hk => ?_⟩
  have h : k ≤ 16 := by
    by_contra hc
    rw [State.frame_eq_none _ (.inr (by omega))] at hk
    cases hk
  have : ∀ j : Fin 17, State.reset.frame j.val = none ∨ State.reset.frame j.val = some 0 := by decide
  rcases this ⟨k, by omega⟩ with h0 | h0 <;> rw [hk] at h0 <;> cases h0
  decide
theorem witness_StepsKeepConfigAndConsumeSchedule : ∃ t, step start = .next t := ⟨_, rfl⟩
theorem witness_InstructionsWriteOnlyTheirRow :
    ∃ t, start.fault = none ∧ exec (.addReg 1 2) start = .next t ∧ t.fault = none ∧
      mayWrite (.addReg 1 2) (.reg 3) = false := ⟨_, rfl, rfl, rfl, by decide⟩
theorem witness_OutcomeDependsOnlyOnReadRow :
    ∃ s s' t, s.fault = none ∧ s'.fault = none ∧ s.pc = s'.pc ∧ s ≠ s' ∧
      (∀ p, mayRead (.ldDTVx 3) p = true ∨ mayWrite (.ldDTVx 3) p = true → p.same s s') ∧ exec (.ldDTVx 3) s = .next t := by
  refine ⟨start, start.setST 9, _, rfl, rfl, rfl, by decide, fun p hp => ?_, rfl⟩
  cases p <;> first | rfl | (simp [mayRead, mayWrite] at hp)

end Sys2Proof.Tests
end

section
/-! O50. The fetched word as a number, the effect of an accepted `load_rom` on memory, and from both the word fetched from
a loaded image (20_memory.md R52). -/

namespace Sys2Proof.Machine

/-- A word in memory as a number: the byte at the lower address is the high one. -/
theorem State.wordAt_toNat (s : State) (a : Nat) :
    (s.wordAt a).toNat = (s.byteAt a).toNat * 256 + (s.byteAt (a + 1)).toNat :=
  wordOfBytes_toNat _ _

/-- The step of a state whose next operation is `load_rom`. -/
theorem step_of_loadRom {s : State} {image : List Byte} {rest : List HostOp} (h : s.schedule = .loadRom image :: rest) :
    step s = .next (State.loadRom { s with schedule := rest } image) := by
  simp only [step, h, perform]

/-- An image of an accepted length is stored from 0x200 on (R97). -/
theorem State.loadRom_of_length_le {s : State} {image : List Byte} (h : image.length ≤ maxRomLen) :
    s.loadRom image = { s.setBytes progBase image with loadResult := some .ok } :=
  if_neg (Nat.not_lt.2 h)

/-- After an accepted `load_rom`, memory holds byte `k` of the image at 0x200 + `k`. -/
theorem State.loadRom_byteAt {s : State} {image : List Byte} {k : Nat} (h : image.length ≤ maxRomLen)
    (hk : k < image.length) : (s.loadRom image).byteAt (progBase + k) = image[k] := by
  rw [State.loadRom_of_length_le h]
  refine (s.setBytes_byteAt progBase image (progBase + k)).trans ?_
  rw [if_pos (by omega), Nat.add_sub_cancel_left, List.getD_eq_getElem image 0 hk]

/-- The word fetched in range, as a number. -/
theorem fetch_toNat {s : State} (h : s.pc.toNat ≤ 0xFFE) : ∃ w, fetch s = some w ∧
    w.toNat = (s.byteAt s.pc.toNat).toNat * 256 + (s.byteAt (s.pc.toNat + 1)).toNat :=
  ⟨_, fetch_eq_some h, s.wordAt_toNat _⟩

/-- Settles O50: a fetch in range reads the word at `pc`; of a loaded image of at most 3584 bytes, the words at
0x200 + 2k are in range, and their two bytes are those `load_rom` stored. -/
theorem fetchIsBigEndian : Obligations.FetchIsBigEndian := by
  refine ⟨fun s => fetch_toNat, fun s t image rest k hk hs hlen hstep hpc => ?_⟩
  obtain ⟨w, hw, hval⟩ := fetch_toNat (s := t) (by omega)
  refine ⟨w, hw, ?_⟩
  rw [step_of_loadRom hs] at hstep
  cases hstep
  rw [hval, hpc, State.loadRom_byteAt hlen (by omega), Nat.add_assoc, State.loadRom_byteAt hlen hk]

end Sys2Proof.Machine
end

section
/-! O3. The decoder against the mask and match table (30_encoding.md R74): a row fixes the fields of the words it selects,
no two rows can be met at once, and every branch of the decoder agrees with the table. -/

namespace Sys2Proof

/-! ### What a row says of the fields of a word it selects -/

theorem OpcodeRow.selects_iff {r : OpcodeRow} {w : Word} : r.selects w = true ↔ w &&& r.mask = r.bits := beq_iff_eq

/-- A selected word and its row's bits are the same under every mask that the row's mask covers. -/
theorem OpcodeRow.and_eq_of_selects {r : OpcodeRow} {w m : Word} (h : r.selects w = true) (hm : r.mask &&& m = m) :
    w &&& m = r.bits &&& m := by
  rw [← selects_iff.1 h, BitVec.and_assoc, hm]

theorem OpcodeRow.eq_bits_of_selects {r : OpcodeRow} {w : Word} (hm : r.mask = 0xFFFF) (h : r.selects w = true) :
    w = r.bits := by
  rw [← selects_iff.1 h, hm]
  exact BitVec.and_allOnes.symm

theorem OpcodeRow.opField_of_selects {r : OpcodeRow} {w : Word} (hm : r.mask &&& 0xF000 = 0xF000)
    (h : r.selects w = true) : opField w = opField r.bits :=
  (and_mask_op w _).1 ((and_eq_of_selects h hm).trans ((and_mask_op r.bits _).2 rfl))

theorem OpcodeRow.nField_of_selects {r : OpcodeRow} {w : Word} (hm : r.mask = 0xF00F) (h : r.selects w = true) :
    nField w = nField r.bits :=
  ((and_mask_n w _ _).1 ((and_eq_of_selects h (by rw [hm]; rfl)).trans ((and_mask_n r.bits _ _).2 ⟨rfl, rfl⟩))).2

theorem OpcodeRow.nnField_of_selects {r : OpcodeRow} {w : Word} (hm : r.mask = 0xF0FF) (h : r.selects w = true) :
    nnField w = nnField r.bits :=
  ((and_mask_nn w _ _).1 ((and_eq_of_selects h (by rw [hm]; rfl)).trans ((and_mask_nn r.bits _ _).2 ⟨rfl, rfl⟩))).2

theorem selects_of_opField {w : Word} {op : BitVec 4} (h : opField w = op) :
    OpcodeRow.selects ⟨0xF000, op ++ 0#12⟩ w = true :=
  OpcodeRow.selects_iff.2 ((and_mask_op w op).2 h)

theorem selects_of_nField {w : Word} {op : BitVec 4} {k : Nat} (h : opField w = op) (hk : (nField w).val = k) :
    OpcodeRow.selects ⟨0xF00F, op ++ 0#4 ++ 0#4 ++ BitVec.ofNat 4 k⟩ w = true := by
  have hn : BitVec.ofNat 4 k = BitVec.ofFin (w := 4) (nField w) := by
    subst hk; exact BitVec.eq_of_toNat_eq (Nat.mod_eq_of_lt (nField w).isLt)
  rw [hn]
  exact OpcodeRow.selects_iff.2 ((and_mask_n w op _).2 ⟨h, rfl⟩)

theorem selects_of_nnField {w : Word} {op : BitVec 4} {nn : Byte} (h : opField w = op) (hnn : nnField w = nn) :
    OpcodeRow.selects ⟨0xF0FF, op ++ 0#4 ++ nn⟩ w = true :=
  OpcodeRow.selects_iff.2 ((and_mask_nn w op nn).2 ⟨h, hnn⟩)

/-! ### The 34 rows -/

theorem Instr.row_mem_opcodeMap (i : Instr) : i.row ∈ opcodeMap := by
  cases i <;> simp [opcodeMap, Instr.row]

theorem opcodeMap_nodup : opcodeMap.Nodup := by decide

/-- Every row's mask covers the opcode class. -/
theorem opcodeMap_mask_op : ∀ r ∈ opcodeMap, r.mask &&& 0xF000 = 0xF000 := by decide

/-- Two rows whose bits agree where both masks look are the same row. -/
theorem opcodeMap_eq_of_bits_agree :
    ∀ r ∈ opcodeMap, ∀ r' ∈ opcodeMap, r.bits &&& r'.mask = r'.bits &&& r.mask → r = r' := by decide

/-- No two rows select one word (R74). -/
theorem opcodeMap_eq_of_selects {r r' : OpcodeRow} {w : Word} (hr : r ∈ opcodeMap) (hr' : r' ∈ opcodeMap)
    (h : r.selects w = true) (h' : r'.selects w = true) : r = r' := by
  refine opcodeMap_eq_of_bits_agree r hr r' hr' ?_
  rw [← OpcodeRow.selects_iff.1 h, ← OpcodeRow.selects_iff.1 h', BitVec.and_assoc, BitVec.and_assoc,
    BitVec.and_comm r.mask]

/-! ### The decoder, branch by branch -/

/-- What R74 asks of the result of decoding `w`: the row of an instruction selects `w`; an error carries `w`, and no row
selects it. -/
def AgreesWithMap (w : Word) : Except Reject Instr → Prop
  | .ok i => i.row.selects w = true
  | .error e => e = .unknownInstruction w ∧ ∀ r ∈ opcodeMap, r.selects w = false

/-- To refuse `w`, only the rows of its class have to be looked at. -/
theorem agreesWithMap_unknown {w : Word}
    (h : ∀ r ∈ opcodeMap, opField r.bits = opField w → r.selects w = true → False) :
    AgreesWithMap w (.error (.unknownInstruction w)) :=
  ⟨rfl, fun r hr => Bool.eq_false_iff.2 fun hs =>
    h r hr (OpcodeRow.opField_of_selects (opcodeMap_mask_op r hr) hs).symm hs⟩

/-- A word of a class whose rows are told apart by `n` is refused when its `n` is none of theirs. -/
theorem agreesWithMap_unknown_of_nField {w : Word} {op : BitVec 4} {l : List Nat}
    (hrows : ∀ r ∈ opcodeMap, opField r.bits = op → r.mask = 0xF00F ∧ (nField r.bits).val ∈ l)
    (hop : opField w = op) (hl : (nField w).val ∉ l) : AgreesWithMap w (.error (.unknownInstruction w)) := by
  refine agreesWithMap_unknown fun r hr hc hs => hl ?_
  obtain ⟨hm, hn⟩ := hrows r hr (hc.trans hop)
  rwa [OpcodeRow.nField_of_selects hm hs]

/-- A word of a class whose rows are told apart by `nn` is refused when its `nn` is none of theirs. -/
theorem agreesWithMap_unknown_of_nnField {w : Word} {op : BitVec 4} {l : List Byte}
    (hrows : ∀ r ∈ opcodeMap, opField r.bits = op → r.mask = 0xF0FF ∧ nnField r.bits ∈ l)
    (hop : opField w = op) (hl : nnField w ∉ l) : AgreesWithMap w (.error (.unknownInstruction w)) := by
  refine agreesWithMap_unknown fun r hr hc hs => hl ?_
  obtain ⟨hm, hnn⟩ := hrows r hr (hc.trans hop)
  rwa [OpcodeRow.nnField_of_selects hm hs]

theorem opcodeMap_class0 :
    ∀ r ∈ opcodeMap, opField r.bits = 0x0 → r.mask = 0xFFFF ∧ r.bits ∈ ([0x00E0, 0x00EE] : List Word) := by decide

theorem opcodeMap_class5 :
    ∀ r ∈ opcodeMap, opField r.bits = 0x5 → r.mask = 0xF00F ∧ (nField r.bits).val ∈ [0x0] := by decide

theorem opcodeMap_class8 : ∀ r ∈ opcodeMap, opField r.bits = 0x8 →
    r.mask = 0xF00F ∧ (nField r.bits).val ∈ [0x0, 0x1, 0x2, 0x3, 0x4, 0x5, 0x6, 0x7, 0xE] := by decide

theorem opcodeMap_class9 :
    ∀ r ∈ opcodeMap, opField r.bits = 0x9 → r.mask = 0xF00F ∧ (nField r.bits).val ∈ [0x0] := by decide

theorem opcodeMap_classE :
    ∀ r ∈ opcodeMap, opField r.bits = 0xE → r.mask = 0xF0FF ∧ nnField r.bits ∈ ([0x9E, 0xA1] : List Byte) := by decide

theorem opcodeMap_classF : ∀ r ∈ opcodeMap, opField r.bits = 0xF → r.mask = 0xF0FF ∧
    nnField r.bits ∈ ([0x07, 0x0A, 0x15, 0x18, 0x1E, 0x29, 0x33, 0x55, 0x65] : List Byte) := by decide

/-- In class 0x0 the two rows are whole words. -/
theorem agreesWithMap_unknown_of_class0 {w : Word} (hop : opField w = 0x0) (hcls : w ≠ 0x00E0) (hret : w ≠ 0x00EE) :
    AgreesWithMap w (.error (.unknownInstruction w)) := by
  refine agreesWithMap_unknown fun r hr hc hs => ?_
  obtain ⟨hm, hbits⟩ := opcodeMap_class0 r hr (hc.trans hop)
  rw [← OpcodeRow.eq_bits_of_selects hm hs] at hbits
  simp_all

theorem decodeClass8_agreesWithMap {w : Word} (hop : opField w = 0x8) : AgreesWithMap w (decodeClass8 w) := by
  unfold decodeClass8
  split
  case h_10 => exact agreesWithMap_unknown_of_nField opcodeMap_class8 hop (by simp_all)
  all_goals next hn => exact selects_of_nField hop hn

theorem decodeClassF_agreesWithMap {w : Word} (hop : opField w = 0xF) : AgreesWithMap w (decodeClassF w) := by
  unfold decodeClassF
  split_ifs
  case neg => exact agreesWithMap_unknown_of_nnField opcodeMap_classF hop (by simp_all)
  all_goals next hnn => exact selects_of_nnField hop hnn

theorem opField_eq_ofNat {w : Word} {k : Nat} (h : (opField w).toNat = k) : opField w = BitVec.ofNat 4 k := by
  rw [← h, BitVec.ofNat_toNat, BitVec.setWidth_eq]

/-- The decoder agrees with the map: in the classes with no sub-opcode the class alone selects the row; in the others the
sub-opcode must be one of the rows'. -/
theorem decodeWord_agreesWithMap (w : Word) : AgreesWithMap w (decodeWord w) := by
  unfold decodeWord
  split
  case h_1 hop =>
    split_ifs with hcls hret
    · rw [hcls]; rfl
    · rw [hret]; rfl
    · exact agreesWithMap_unknown_of_class0 (opField_eq_ofNat hop) hcls hret
  case h_6 hop =>
    split_ifs with hn
    · exact selects_of_nField (opField_eq_ofNat hop) (congrArg Fin.val hn)
    · exact agreesWithMap_unknown_of_nField opcodeMap_class5 (opField_eq_ofNat hop) (by simpa using hn)
  case h_9 hop => exact decodeClass8_agreesWithMap (opField_eq_ofNat hop)
  case h_10 hop =>
    split_ifs with hn
    · exact selects_of_nField (opField_eq_ofNat hop) (congrArg Fin.val hn)
    · exact agreesWithMap_unknown_of_nField opcodeMap_class9 (opField_eq_ofNat hop) (by simpa using hn)
  case h_15 hop =>
    split_ifs with hskp hsknp
    · exact selects_of_nnField (opField_eq_ofNat hop) hskp
    · exact selects_of_nnField (opField_eq_ofNat hop) hsknp
    · exact agreesWithMap_unknown_of_nnField opcodeMap_classE (opField_eq_ofNat hop) (by simp_all)
  case h_16 =>
    have hlt : (opField w).toNat < 16 := (opField w).isLt
    simp only [imp_false] at *
    exact decodeClassF_agreesWithMap (opField_eq_ofNat (k := 15) (by omega))
  all_goals next hop => exact selects_of_opField (opField_eq_ofNat hop)

/-- The row of the instruction a word decodes to selects the word. -/
theorem row_selects_of_decodeWord_ok {w : Word} {i : Instr} (h : decodeWord w = .ok i) : i.row.selects w = true := by
  have hw := decodeWord_agreesWithMap w
  rwa [h] at hw

/-- A refused word is an unknown instruction carrying the word, and no row selects it. -/
theorem no_row_selects_of_decodeWord_error {w : Word} {e : Reject} (h : decodeWord w = .error e) :
    e = .unknownInstruction w ∧ ∀ r ∈ opcodeMap, r.selects w = false := by
  have hw := decodeWord_agreesWithMap w
  rwa [h] at hw

/-! ### The statement -/

/-- Settles O3: the 34 rows are pairwise incompatible, and the decoder agrees with them on every word; the row of the
instruction a word decodes to is then the only one that selects the word. -/
theorem decodeSelectsOpcodeRow : Obligations.DecodeSelectsOpcodeRow := by
  refine ⟨rfl, fun w => ⟨fun j k hj hk => ?_, fun i hi => ⟨i.row_mem_opcodeMap, row_selects_of_decodeWord_ok hi⟩,
    fun r hr hs => ?_, fun hnone => ?_⟩⟩
  · have hrow := opcodeMap_eq_of_selects (List.getElem_mem j.isLt) (List.getElem_mem k.isLt) hj hk
    exact Fin.ext (opcodeMap_nodup.getElem_inj_iff.1 hrow)
  · cases hd : decodeWord w with
    | ok i => exact ⟨i, rfl, opcodeMap_eq_of_selects i.row_mem_opcodeMap hr (row_selects_of_decodeWord_ok hd) hs⟩
    | error e =>
      obtain ⟨-, hnone⟩ := no_row_selects_of_decodeWord_error hd
      exact absurd hs (Bool.eq_false_iff.1 (hnone r hr))
  · cases hd : decodeWord w with
    | ok i =>
      have hs := row_selects_of_decodeWord_ok hd
      exact absurd hs (Bool.eq_false_iff.1 (hnone i.row i.row_mem_opcodeMap))
    | error e =>
      obtain ⟨rfl, -⟩ := no_row_selects_of_decodeWord_error hd
      rfl

end Sys2Proof
end

section
/-! O6, O7, O8, O9. The decoder on the words of the jumps and skips (30_encoding.md R74, R76), the target of each, and what a
skip answers (41_flow.md R110, R112, R114 to R118). -/

namespace Sys2Proof

/-! ### The decoder on one class of words -/

theorem decodeWord_of_class1 {w : Word} (h : opField w = 0x1) : decodeWord w = .ok (.jp (nnnField w)) := by
  simp [decodeWord, h]

theorem decodeWord_of_class3 {w : Word} (h : opField w = 0x3) :
    decodeWord w = .ok (.seByte (xField w) (nnField w)) := by
  simp [decodeWord, h]

theorem decodeWord_of_class4 {w : Word} (h : opField w = 0x4) :
    decodeWord w = .ok (.sneByte (xField w) (nnField w)) := by
  simp [decodeWord, h]

theorem decodeWord_of_class5 {w : Word} (h : opField w = 0x5) : decodeWord w =
    if nField w = 0 then .ok (.seReg (xField w) (yField w)) else .error (.unknownInstruction w) := by
  simp [decodeWord, h]

theorem decodeWord_of_class9 {w : Word} (h : opField w = 0x9) : decodeWord w =
    if nField w = 0 then .ok (.sneReg (xField w) (yField w)) else .error (.unknownInstruction w) := by
  simp [decodeWord, h]

theorem decodeWord_of_classB {w : Word} (h : opField w = 0xB) : decodeWord w = .ok (.jpV0 (nnnField w)) := by
  simp [decodeWord, h]

/-! ### The words of the jumps and skips -/

theorem decodeWord_jp (nnn : Addr) : decodeWord (formatNNN 0x1 nnn) = .ok (.jp nnn) := by
  rw [decodeWord_of_class1 (opField_formatNNN _ _), nnnField_formatNNN]

theorem decodeWord_jpV0 (nnn : Addr) : decodeWord (formatNNN 0xB nnn) = .ok (.jpV0 nnn) := by
  rw [decodeWord_of_classB (opField_formatNNN _ _), nnnField_formatNNN]

theorem decodeWord_seByte (x : Nibble) (nn : Byte) : decodeWord (formatXNN 0x3 x nn) = .ok (.seByte x nn) := by
  rw [decodeWord_of_class3 (opField_formatXNN _ _ _), xField_formatXNN, nnField_formatXNN]

theorem decodeWord_sneByte (x : Nibble) (nn : Byte) : decodeWord (formatXNN 0x4 x nn) = .ok (.sneByte x nn) := by
  rw [decodeWord_of_class4 (opField_formatXNN _ _ _), xField_formatXNN, nnField_formatXNN]

theorem decodeWord_formatXYN_class5 (x y n : Nibble) : decodeWord (formatXYN 0x5 x y n) =
    if n = 0 then .ok (.seReg x y) else .error (.unknownInstruction (formatXYN 0x5 x y n)) := by
  rw [decodeWord_of_class5 (opField_formatXYN _ _ _ _), nField_formatXYN, xField_formatXYN, yField_formatXYN]

theorem decodeWord_formatXYN_class9 (x y n : Nibble) : decodeWord (formatXYN 0x9 x y n) =
    if n = 0 then .ok (.sneReg x y) else .error (.unknownInstruction (formatXYN 0x9 x y n)) := by
  rw [decodeWord_of_class9 (opField_formatXYN _ _ _ _), nField_formatXYN, xField_formatXYN, yField_formatXYN]

end Sys2Proof

namespace Sys2Proof.Machine

/-- The target of `JP V0,addr` is not reduced: a 12-bit and an 8-bit value cannot overflow 16 bits. -/
theorem toNat_addrToWord_add_byteToWord (nnn : Addr) (b : Byte) :
    (addrToWord nnn + byteToWord b).toNat = nnn.toNat + b.toNat := by
  rw [BitVec.toNat_add, toNat_addrToWord, toNat_byteToWord]
  omega

/-- An instruction whose meaning is a skip answers a next state, with `pc` moved on by one word exactly under its condition,
and changes nothing else (R110). -/
theorem exec_skip {i : Instr} {s : State} {c : Bool} {p : Prop} [Decidable p] (hi : exec i s = .next (s.skipIf c))
    (hc : c = true ↔ p) : ∃ t, exec i s = .next t ∧ t.pc = (if p then s.pc + 2 else s.pc) ∧ Frame s t [.pc] :=
  ⟨s.skipIf c, hi, (s.skipIf_pc c).trans (if_congr hc rfl rfl), s.skipIf_Frame c⟩

/-! ### The statements -/

/-- Settles O6: `JP` writes `pc` with its own 12-bit operand, zero-extended. -/
theorem jumpGoesToAddress : Obligations.JumpGoesToAddress := fun nnn s =>
  ⟨decodeWord_jp nnn, s.setPc (addrToWord nnn), rfl, toNat_addrToWord nnn, s.setPc_Frame _⟩

/-- Settles O7: `JP V0,addr` writes `pc` with a sum that fits in 16 bits. -/
theorem jumpWithOffsetGoesToSum : Obligations.JumpWithOffsetGoesToSum := fun nnn s =>
  ⟨decodeWord_jpV0 nnn, s.setPc (addrToWord nnn + byteToWord (s.reg 0)), rfl,
    toNat_addrToWord_add_byteToWord nnn (s.reg 0), s.setPc_Frame _⟩

/-- Settles O8: both meanings are skips, the one on `Vx = nn`, the other on `Vx ≠ nn`. -/
theorem immediateSkipsTestTheRegister : Obligations.ImmediateSkipsTestTheRegister := fun x nn _ =>
  ⟨⟨decodeWord_seByte x nn, decodeWord_sneByte x nn⟩, exec_skip rfl beq_iff_eq, exec_skip rfl bne_iff_ne⟩

/-- Settles O9: both meanings are skips, the one on `Vx = Vy`, the other on `Vx ≠ Vy`; `n` alone decides between them and
an unknown word. -/
theorem registerSkipsCompare : Obligations.RegisterSkipsCompare := by
  refine fun x y s => ⟨⟨?_, ?_⟩, fun n hn => ⟨?_, ?_⟩, exec_skip rfl beq_iff_eq, exec_skip rfl bne_iff_ne⟩
  · rw [decodeWord_formatXYN_class5, if_pos rfl]
  · rw [decodeWord_formatXYN_class9, if_pos rfl]
  · rw [decodeWord_formatXYN_class5, if_neg hn]
  · rw [decodeWord_formatXYN_class9, if_neg hn]

end Sys2Proof.Machine
end

section
/-! O14, O15, O16. The decoder on the words of the register loads, `ADD Vx,byte` and the logic instructions (30_encoding.md
R74), and the one register each of them writes (42_alu.md R121 to R126). -/

namespace Sys2Proof

/-! ### The decoder on one class of words -/

theorem decodeWord_of_class6 {w : Word} (h : opField w = 0x6) :
    decodeWord w = .ok (.ldByte (xField w) (nnField w)) := by
  simp [decodeWord, h]

theorem decodeWord_of_class7 {w : Word} (h : opField w = 0x7) :
    decodeWord w = .ok (.addByte (xField w) (nnField w)) := by
  simp [decodeWord, h]

theorem decodeWord_of_class8 {w : Word} (h : opField w = 0x8) : decodeWord w = decodeClass8 w := by
  simp [decodeWord, h]

/-- A word of format `XYN` in class 0x8 is decoded by its `n` alone, and its `x` and `y` are the operands. -/
theorem decodeWord_formatXYN_class8 {x y n : Nibble} {instr : Nibble → Nibble → Instr}
    (h : ∀ w : Word, nField w = n → decodeClass8 w = .ok (instr (xField w) (yField w))) :
    decodeWord (formatXYN 0x8 x y n) = .ok (instr x y) := by
  rw [decodeWord_of_class8 (opField_formatXYN _ _ _ _), h _ (nField_formatXYN _ _ _ _), xField_formatXYN,
    yField_formatXYN]

/-! ### The words of the loads, of `ADD Vx,byte` and of the logic instructions -/

theorem decodeWord_ldByte (x : Nibble) (nn : Byte) : decodeWord (formatXNN 0x6 x nn) = .ok (.ldByte x nn) := by
  rw [decodeWord_of_class6 (opField_formatXNN _ _ _), xField_formatXNN, nnField_formatXNN]

theorem decodeWord_addByte (x : Nibble) (nn : Byte) : decodeWord (formatXNN 0x7 x nn) = .ok (.addByte x nn) := by
  rw [decodeWord_of_class7 (opField_formatXNN _ _ _), xField_formatXNN, nnField_formatXNN]

theorem decodeWord_ldReg (x y : Nibble) : decodeWord (formatXYN 0x8 x y 0) = .ok (.ldReg x y) :=
  decodeWord_formatXYN_class8 fun _ hn => by simp [decodeClass8, hn]

theorem decodeWord_orReg (x y : Nibble) : decodeWord (formatXYN 0x8 x y 1) = .ok (.orReg x y) :=
  decodeWord_formatXYN_class8 fun _ hn => by simp [decodeClass8, hn]

theorem decodeWord_andReg (x y : Nibble) : decodeWord (formatXYN 0x8 x y 2) = .ok (.andReg x y) :=
  decodeWord_formatXYN_class8 fun _ hn => by simp [decodeClass8, hn]

theorem decodeWord_xorReg (x y : Nibble) : decodeWord (formatXYN 0x8 x y 3) = .ok (.xorReg x y) :=
  decodeWord_formatXYN_class8 fun _ hn => by simp [decodeClass8, hn]

end Sys2Proof

namespace Sys2Proof.Machine

/-- An instruction whose meaning is one register write answers a next state that holds the value written, and changes
nothing else; `VF` is an ordinary register here. -/
theorem exec_setReg {i : Instr} {s : State} {x : Nibble} {b : Byte} (hi : exec i s = .next (s.setReg x b)) :
    ∃ t, exec i s = .next t ∧ t.reg x = b ∧ Frame s t [.reg x] :=
  ⟨s.setReg x b, hi, s.reg_setReg_same x b, s.setReg_Frame x b⟩

/-- The same for a value given bit by bit. -/
theorem exec_setReg_bits {i : Instr} {s : State} {x : Nibble} {b : Byte} {f : Nat → Bool}
    (hi : exec i s = .next (s.setReg x b)) (hb : ∀ k, b.getLsbD k = f k) :
    ∃ t, exec i s = .next t ∧ (∀ k, (t.reg x).getLsbD k = f k) ∧ Frame s t [.reg x] := by
  obtain ⟨t, ht, hreg, hframe⟩ := exec_setReg hi
  exact ⟨t, ht, fun k => hreg ▸ hb k, hframe⟩

/-! ### The statements -/

/-- Settles O14: both meanings are one register write, of the operand byte and of the value of `Vy`. -/
theorem loadsWriteOneRegister : Obligations.LoadsWriteOneRegister := fun x y nn _ =>
  ⟨⟨decodeWord_ldByte x nn, decodeWord_ldReg x y⟩, exec_setReg rfl, exec_setReg rfl⟩

/-- Settles O15: the meaning is one register write, of a byte sum, which is taken modulo 2^8 (R133). -/
theorem addImmediateWrapsWithoutFlag : Obligations.AddImmediateWrapsWithoutFlag := by
  refine fun x nn s => ⟨decodeWord_addByte x nn, ?_⟩
  obtain ⟨t, ht, hreg, hframe⟩ := exec_setReg (i := .addByte x nn) (s := s) rfl
  exact ⟨t, ht, by rw [hreg, BitVec.toNat_add], hframe⟩

/-- Settles O16: the three meanings are one register write, of the bitwise or, and, exclusive or of `Vx` and `Vy`. -/
theorem logicIsBitwise : Obligations.LogicIsBitwise := fun x y _ =>
  ⟨⟨decodeWord_orReg x y, decodeWord_andReg x y, decodeWord_xorReg x y⟩,
    exec_setReg_bits rfl fun _ => BitVec.getLsbD_or, exec_setReg_bits rfl fun _ => BitVec.getLsbD_and,
    exec_setReg_bits rfl fun _ => BitVec.getLsbD_xor⟩

end Sys2Proof.Machine
end

section
/-! O21. The decoder on the words of `LD I,addr` (30_encoding.md R74) and the one register it writes (43_index_memory.md
R140). -/

namespace Sys2Proof

theorem decodeWord_of_classA {w : Word} (h : opField w = 0xA) : decodeWord w = .ok (.ldI (nnnField w)) := by
  simp [decodeWord, h]

theorem decodeWord_ldI (nnn : Addr) : decodeWord (formatNNN 0xA nnn) = .ok (.ldI nnn) := by
  rw [decodeWord_of_classA (opField_formatNNN _ _), nnnField_formatNNN]

end Sys2Proof

namespace Sys2Proof.Machine

/-- Settles O21: the meaning is one write of `I` with the 12-bit operand, zero-extended. -/
theorem loadIndexTakesAddress : Obligations.LoadIndexTakesAddress := fun nnn s =>
  ⟨decodeWord_ldI nnn, s.setI (addrToWord nnn), rfl, toNat_addrToWord nnn, s.setI_Frame _⟩

end Sys2Proof.Machine
end

section
/-! O29. The word of `CLS` (30_encoding.md R74) and its meaning, one write of the pixels (44_display.md R151). -/

namespace Sys2Proof

theorem decodeWord_cls : decodeWord 0x00E0 = .ok .cls := rfl

end Sys2Proof

namespace Sys2Proof.Machine

theorem exec_cls (s : State) : exec .cls s = .next (s.setPixels blankScreen) := rfl

/-- What the display shows after the pixels are replaced. -/
theorem State.display_setPixels (s : State) (fb : Framebuffer) (px py : Nat) :
    (s.setPixels fb).display px py = fb.pixel px py := rfl

/-- Settles O29: `CLS` replaces the pixels by the blank screen, and replacing the pixels writes no other piece, `VF`
included. -/
theorem clearTurnsEveryPixelOff : Obligations.ClearTurnsEveryPixelOff := by
  refine ⟨decodeWord_cls, fun s => ⟨s.setPixels blankScreen, exec_cls s, fun px py => ?_, s.setPixels_Frame blankScreen⟩⟩
  rw [State.display_setPixels, pixel_blankScreen]

end Sys2Proof.Machine
end

section
/-! O35. The decoder on the words of class 0xF (30_encoding.md R74), and the one byte that each of the timer transfers copies
(45_keypad_timers.md R163 to R165). -/

namespace Sys2Proof

theorem decodeWord_of_classF {w : Word} (h : opField w = 0xF) : decodeWord w = decodeClassF w := by
  simp [decodeWord, h]

/-- A word of format `XNN` in class 0xF is decoded by its `nn` alone, and its `x` is the operand. -/
theorem decodeWord_formatXNN_classF {x : Nibble} {nn : Byte} {instr : Nibble → Instr}
    (h : ∀ w : Word, nnField w = nn → decodeClassF w = .ok (instr (xField w))) :
    decodeWord (formatXNN 0xF x nn) = .ok (instr x) := by
  rw [decodeWord_of_classF (opField_formatXNN _ _ _), h _ (nnField_formatXNN _ _ _), xField_formatXNN]

/-! ### The words of the timer transfers -/

theorem decodeWord_ldVxDT (x : Nibble) : decodeWord (formatXNN 0xF x 0x07) = .ok (.ldVxDT x) :=
  decodeWord_formatXNN_classF fun _ hnn => by simp [decodeClassF, hnn]

theorem decodeWord_ldDTVx (x : Nibble) : decodeWord (formatXNN 0xF x 0x15) = .ok (.ldDTVx x) :=
  decodeWord_formatXNN_classF fun _ hnn => by simp [decodeClassF, hnn]

theorem decodeWord_ldSTVx (x : Nibble) : decodeWord (formatXNN 0xF x 0x18) = .ok (.ldSTVx x) :=
  decodeWord_formatXNN_classF fun _ hnn => by simp [decodeClassF, hnn]

end Sys2Proof

namespace Sys2Proof.Machine

theorem exec_ldDTVx (x : Nibble) (s : State) : exec (.ldDTVx x) s = .next (s.setDT (s.reg x)) := rfl

theorem exec_ldSTVx (x : Nibble) (s : State) : exec (.ldSTVx x) s = .next (s.setST (s.reg x)) := rfl

/-- The sound plays exactly while `ST` is above 0 (R98). -/
theorem State.shouldPlaySound_iff (s : State) : s.shouldPlaySound = true ↔ 0 < s.ST.toNat := decide_eq_true_iff

/-- Settles O35: the three meanings are one write each, of a register, of `DT` and of `ST`; the sound is read off the `ST`
just written. -/
theorem timerTransfersCopyBytes : Obligations.TimerTransfersCopyBytes := by
  refine fun x s => ⟨⟨decodeWord_ldVxDT x, decodeWord_ldDTVx x, decodeWord_ldSTVx x⟩, exec_setReg rfl, ?_, ?_⟩
  · exact ⟨s.setDT (s.reg x), exec_ldDTVx x s, s.setDT_DT _, s.setDT_Frame _⟩
  · exact ⟨s.setST (s.reg x), exec_ldSTVx x s, s.setST_ST _, (s.setST (s.reg x)).shouldPlaySound_iff, s.setST_Frame _⟩

end Sys2Proof.Machine
end

section
/-! O1, O2, O4, O5. Decoder and encoder against each other: the words of the instructions the sections above do not name
(30_encoding.md R74), a word put together again from its fields (R71, R72), and the words of no instruction (R76). -/

namespace Sys2Proof

/-! ### The decoder on the words of the remaining instructions -/

theorem decodeWord_of_class2 {w : Word} (h : opField w = 0x2) : decodeWord w = .ok (.call (nnnField w)) := by
  simp [decodeWord, h]

theorem decodeWord_of_classC {w : Word} (h : opField w = 0xC) : decodeWord w = .ok (.rnd (xField w) (nnField w)) := by
  simp [decodeWord, h]

theorem decodeWord_of_classD {w : Word} (h : opField w = 0xD) :
    decodeWord w = .ok (.drw (xField w) (yField w) (nField w)) := by
  simp [decodeWord, h]

theorem decodeWord_of_classE {w : Word} (h : opField w = 0xE) : decodeWord w =
    if nnField w = 0x9E then .ok (.skp (xField w))
    else if nnField w = 0xA1 then .ok (.sknp (xField w)) else .error (.unknownInstruction w) := by
  simp [decodeWord, h]

theorem decodeWord_ret : decodeWord 0x00EE = .ok .ret := rfl

theorem decodeWord_call (nnn : Addr) : decodeWord (formatNNN 0x2 nnn) = .ok (.call nnn) := by
  rw [decodeWord_of_class2 (opField_formatNNN _ _), nnnField_formatNNN]

theorem decodeWord_seReg (x y : Nibble) : decodeWord (formatXYN 0x5 x y 0) = .ok (.seReg x y) := by
  rw [decodeWord_formatXYN_class5, if_pos rfl]

theorem decodeWord_sneReg (x y : Nibble) : decodeWord (formatXYN 0x9 x y 0) = .ok (.sneReg x y) := by
  rw [decodeWord_formatXYN_class9, if_pos rfl]

theorem decodeWord_addReg (x y : Nibble) : decodeWord (formatXYN 0x8 x y 4) = .ok (.addReg x y) :=
  decodeWord_formatXYN_class8 fun _ hn => by simp [decodeClass8, hn]

theorem decodeWord_subReg (x y : Nibble) : decodeWord (formatXYN 0x8 x y 5) = .ok (.subReg x y) :=
  decodeWord_formatXYN_class8 fun _ hn => by simp [decodeClass8, hn]

theorem decodeWord_shr (x y : Nibble) : decodeWord (formatXYN 0x8 x y 6) = .ok (.shr x y) :=
  decodeWord_formatXYN_class8 fun _ hn => by simp [decodeClass8, hn]

theorem decodeWord_subnReg (x y : Nibble) : decodeWord (formatXYN 0x8 x y 7) = .ok (.subnReg x y) :=
  decodeWord_formatXYN_class8 fun _ hn => by simp [decodeClass8, hn]

theorem decodeWord_shl (x y : Nibble) : decodeWord (formatXYN 0x8 x y 0xE) = .ok (.shl x y) :=
  decodeWord_formatXYN_class8 fun _ hn => by simp [decodeClass8, hn]

theorem decodeWord_rnd (x : Nibble) (nn : Byte) : decodeWord (formatXNN 0xC x nn) = .ok (.rnd x nn) := by
  rw [decodeWord_of_classC (opField_formatXNN _ _ _), xField_formatXNN, nnField_formatXNN]

theorem decodeWord_drw (x y n : Nibble) : decodeWord (formatXYN 0xD x y n) = .ok (.drw x y n) := by
  rw [decodeWord_of_classD (opField_formatXYN _ _ _ _), xField_formatXYN, yField_formatXYN, nField_formatXYN]

theorem decodeWord_skp (x : Nibble) : decodeWord (formatXNN 0xE x 0x9E) = .ok (.skp x) := by
  rw [decodeWord_of_classE (opField_formatXNN _ _ _), xField_formatXNN, nnField_formatXNN, if_pos rfl]

theorem decodeWord_sknp (x : Nibble) : decodeWord (formatXNN 0xE x 0xA1) = .ok (.sknp x) := by
  rw [decodeWord_of_classE (opField_formatXNN _ _ _), xField_formatXNN, nnField_formatXNN, if_neg (by decide), if_pos rfl]

theorem decodeWord_ldVxK (x : Nibble) : decodeWord (formatXNN 0xF x 0x0A) = .ok (.ldVxK x) :=
  decodeWord_formatXNN_classF fun _ hnn => by simp [decodeClassF, hnn]

theorem decodeWord_addIVx (x : Nibble) : decodeWord (formatXNN 0xF x 0x1E) = .ok (.addIVx x) :=
  decodeWord_formatXNN_classF fun _ hnn => by simp [decodeClassF, hnn]

theorem decodeWord_ldFVx (x : Nibble) : decodeWord (formatXNN 0xF x 0x29) = .ok (.ldFVx x) :=
  decodeWord_formatXNN_classF fun _ hnn => by simp [decodeClassF, hnn]

theorem decodeWord_ldBVx (x : Nibble) : decodeWord (formatXNN 0xF x 0x33) = .ok (.ldBVx x) :=
  decodeWord_formatXNN_classF fun _ hnn => by simp [decodeClassF, hnn]

theorem decodeWord_ldMemVx (x : Nibble) : decodeWord (formatXNN 0xF x 0x55) = .ok (.ldMemVx x) :=
  decodeWord_formatXNN_classF fun _ hnn => by simp [decodeClassF, hnn]

theorem decodeWord_ldVxMem (x : Nibble) : decodeWord (formatXNN 0xF x 0x65) = .ok (.ldVxMem x) :=
  decodeWord_formatXNN_classF fun _ hnn => by simp [decodeClassF, hnn]

/-- Settles O1: one lemma per instruction, each by reading the fields of its format back. -/
theorem decodeOfEncodeIsIdentity : Obligations.DecodeOfEncodeIsIdentity
  | .cls => decodeWord_cls
  | .ret => decodeWord_ret
  | .jp nnn => decodeWord_jp nnn
  | .call nnn => decodeWord_call nnn
  | .seByte x nn => decodeWord_seByte x nn
  | .sneByte x nn => decodeWord_sneByte x nn
  | .seReg x y => decodeWord_seReg x y
  | .sneReg x y => decodeWord_sneReg x y
  | .ldByte x nn => decodeWord_ldByte x nn
  | .addByte x nn => decodeWord_addByte x nn
  | .ldReg x y => decodeWord_ldReg x y
  | .orReg x y => decodeWord_orReg x y
  | .andReg x y => decodeWord_andReg x y
  | .xorReg x y => decodeWord_xorReg x y
  | .addReg x y => decodeWord_addReg x y
  | .subReg x y => decodeWord_subReg x y
  | .shr x y => decodeWord_shr x y
  | .subnReg x y => decodeWord_subnReg x y
  | .shl x y => decodeWord_shl x y
  | .ldI nnn => decodeWord_ldI nnn
  | .jpV0 nnn => decodeWord_jpV0 nnn
  | .rnd x nn => decodeWord_rnd x nn
  | .drw x y n => decodeWord_drw x y n
  | .skp x => decodeWord_skp x
  | .sknp x => decodeWord_sknp x
  | .ldVxDT x => decodeWord_ldVxDT x
  | .ldVxK x => decodeWord_ldVxK x
  | .ldDTVx x => decodeWord_ldDTVx x
  | .ldSTVx x => decodeWord_ldSTVx x
  | .addIVx x => decodeWord_addIVx x
  | .ldFVx x => decodeWord_ldFVx x
  | .ldBVx x => decodeWord_ldBVx x
  | .ldMemVx x => decodeWord_ldMemVx x
  | .ldVxMem x => decodeWord_ldVxMem x

/-! ### A word from its fields -/

theorem formatNNN_nnnField {w : Word} {op : BitVec 4} (h : opField w = op) : formatNNN op (nnnField w) = w := by
  rw [← h]; exact op_nnn w

theorem formatXNN_of_fields {w : Word} {op : BitVec 4} {nn : Byte} (h : opField w = op) (hnn : nnField w = nn) :
    formatXNN op (xField w) nn = w := by
  rw [← h, ← hnn]; exact op_x_nn w

theorem formatXYN_of_fields {w : Word} {op : BitVec 4} {n : Nibble} (h : opField w = op) (hn : nField w = n) :
    formatXYN op (xField w) (yField w) n = w := by
  rw [← h, ← hn]; exact op_x_y_n w

theorem encode_of_decodeClass8 {w : Word} {i : Instr} (hop : opField w = 0x8) (h : decodeClass8 w = .ok i) :
    encode i = w := by
  unfold decodeClass8 at h
  split at h
  case h_10 => cases h
  all_goals
    next hn =>
      cases h
      exact formatXYN_of_fields hop (Fin.ext hn)

theorem encode_of_decodeClassF {w : Word} {i : Instr} (hop : opField w = 0xF) (h : decodeClassF w = .ok i) :
    encode i = w := by
  unfold decodeClassF at h
  split_ifs at h
  all_goals
    next hnn =>
      cases h
      exact formatXNN_of_fields hop hnn

/-- Settles O2: in every branch of the decoder the class, the sub-opcode the branch has tested and the operands it has read
are all the fields of the word. -/
theorem encodeOfDecodeIsIdentity : Obligations.EncodeOfDecodeIsIdentity := by
  intro w i h
  unfold decodeWord at h
  split at h
  case h_1 =>
    split_ifs at h with hcls hret
    · cases h; exact hcls.symm
    · cases h; exact hret.symm
  case h_6 hop =>
    split_ifs at h with hn
    cases h; exact formatXYN_of_fields (opField_eq_ofNat hop) hn
  case h_9 hop => exact encode_of_decodeClass8 (opField_eq_ofNat hop) h
  case h_10 hop =>
    split_ifs at h with hn
    cases h; exact formatXYN_of_fields (opField_eq_ofNat hop) hn
  case h_14 hop => cases h; exact formatXYN_of_fields (opField_eq_ofNat hop) rfl
  case h_15 hop =>
    split_ifs at h with hskp hsknp
    · cases h; exact formatXNN_of_fields (opField_eq_ofNat hop) hskp
    · cases h; exact formatXNN_of_fields (opField_eq_ofNat hop) hsknp
  case h_16 =>
    have hlt : (opField w).toNat < 16 := (opField w).isLt
    simp only [imp_false] at *
    exact encode_of_decodeClassF (opField_eq_ofNat (k := 15) (by omega)) h
  case h_2 hop | h_3 hop | h_11 hop | h_12 hop => cases h; exact formatNNN_nnnField (opField_eq_ofNat hop)
  all_goals next hop => cases h; exact formatXNN_of_fields (opField_eq_ofNat hop) rfl

/-! ### Unknown words (R76) -/

theorem decodeClass8_eq_unknown_iff (w : Word) : decodeClass8 w = .error (.unknownInstruction w) ↔
    nField w ∈ ([0x8, 0x9, 0xA, 0xB, 0xC, 0xD, 0xF] : List Nibble) := by
  have hclass : ∀ n : Nibble, n ∈ ([0x8, 0x9, 0xA, 0xB, 0xC, 0xD, 0xF] : List Nibble) ↔
      n.val ∉ [0x0, 0x1, 0x2, 0x3, 0x4, 0x5, 0x6, 0x7, 0xE] := by decide
  rw [hclass]
  unfold decodeClass8
  split <;> simp_all

theorem decodeClassF_eq_unknown_iff (w : Word) : decodeClassF w = .error (.unknownInstruction w) ↔
    nnField w ∉ ([0x07, 0x0A, 0x15, 0x18, 0x1E, 0x29, 0x33, 0x55, 0x65] : List Byte) := by
  unfold decodeClassF
  split_ifs <;> simp_all

/-- Settles O4: each class is a branch of the decoder, and within it the sub-opcode decides what is refused. -/
theorem unknownWordsByClass : Obligations.UnknownWordsByClass := by
  intro w
  unfold decodeWord
  split
  case h_9 hop => simp [opField_eq_ofNat hop, decodeClass8_eq_unknown_iff]
  case h_16 =>
    have hlt : (opField w).toNat < 16 := (opField w).isLt
    simp only [imp_false] at *
    simp [opField_eq_ofNat (w := w) (k := 15) (by omega), decodeClassF_eq_unknown_iff]
  case h_1 hop | h_6 hop | h_10 hop | h_15 hop =>
    rw [opField_eq_ofNat hop]
    split_ifs <;> simp_all
  all_goals next hop => simp [opField_eq_ofNat hop]

/-- Settles O5: fourteen fixed words through the decoder. -/
theorem sampleWordsDecode : Obligations.SampleWordsDecode := by
  unfold Obligations.SampleWordsDecode
  decide

end Sys2Proof
end

section
/-! O10, O11, O12, O13. `CALL` and `RET` by the value of `sp`: room, full or empty, and no legal value (41_flow.md R111,
R113). -/

namespace Sys2Proof.Machine

variable {s t : State}

theorem State.frame_congr (h : t.stack = s.stack) (k : Nat) : t.frame k = s.frame k := by
  simp only [State.frame, h]

theorem State.popFrame_sp_toNat (h : 1 ≤ s.sp.toNat) : s.popFrame.sp.toNat + 1 = s.sp.toNat := by
  rw [State.popFrame_sp, BitVec.toNat_sub_of_le (by simpa [BitVec.le_def] using h)]
  exact Nat.sub_add_cancel h

theorem State.pushFrame_sp_toNat (w : Word) (h : s.sp.toNat < 16) : (s.pushFrame w).sp.toNat = s.sp.toNat + 1 := by
  rw [State.pushFrame_sp, BitVec.toNat_add_of_lt (by simp; omega)]
  rfl

/-! ### `CALL` -/

theorem exec_call_of_lt (nnn : Addr) (h : s.sp.toNat < 16) :
    exec (.call nnn) s = .next ((s.pushFrame s.pc).setPc (addrToWord nnn)) := by
  have h16 : s.sp ≠ 16 := fun hc => by simp [hc] at h
  simp only [exec, execCall]
  rw [if_neg h16, if_pos h]

theorem exec_call_of_full (nnn : Addr) (h : s.sp = 16) : exec (.call nnn) s = raise .stackOverflow (.call nnn) s :=
  if_pos h

theorem exec_call_of_no_frame (nnn : Addr) (h : 16 < s.sp.toNat) : exec (.call nnn) s = .fault (.noSuchFrame s.sp) := by
  have h16 : s.sp ≠ 16 := fun hc => by simp [hc] at h
  simp only [exec, execCall]
  rw [if_neg h16, if_neg (Nat.not_lt.2 h.le)]

/-! ### `RET` -/

theorem exec_ret_of_frame {ra : Word} (h : s.frame s.sp.toNat = some ra) :
    exec .ret s = .next (s.popFrame.setPc ra) := by
  have h0 : s.sp ≠ 0 := fun hc => by simp [hc, State.frame] at h
  simp only [exec, execRet]
  rw [if_neg h0, h]

theorem exec_ret_of_empty (h : s.sp = 0) : exec .ret s = raise .stackUnderflow .ret s := if_pos h

theorem exec_ret_of_no_frame (h : 16 < s.sp.toNat) : exec .ret s = .fault (.noSuchFrame s.sp) := by
  have h0 : s.sp ≠ 0 := fun hc => by simp [hc] at h
  simp only [exec, execRet]
  rw [if_neg h0, State.frame_eq_none s (.inr h)]

/-! ### The statements -/

/-- The frame pushed is the new top frame. -/
theorem State.frame_pushFrame_top (w : Word) (h : s.sp.toNat < 16) :
    (s.pushFrame w).frame (s.pushFrame w).sp.toNat = some w := by
  rw [State.pushFrame_sp_toNat w h, State.frame_pushFrame s w h, if_pos rfl]

/-- Settles O10: with room `CALL` pushes the post-fetch `pc` and jumps. -/
theorem callPushesReturnAddress : Obligations.CallPushesReturnAddress := by
  intro nnn s h
  refine ⟨(s.pushFrame s.pc).setPc (addrToWord nnn), exec_call_of_lt nnn h, toNat_addrToWord nnn,
    s.pushFrame_sp_toNat s.pc h, State.frame_pushFrame_top s.pc h, fun k hk => ?_, ?_⟩
  · rw [State.setPc_sp, State.pushFrame_sp_toNat s.pc h] at hk
    rw [State.setPc_frame, State.frame_pushFrame s s.pc h, if_neg hk]
  · exact ((s.pushFrame_Frame s.pc).mono (by simp)).trans (((s.pushFrame s.pc).setPc_Frame _).mono (by simp))

/-- `RET` with a frame at the top changes only `pc` and `sp`. -/
theorem State.popFrame_setPc_Frame (s : State) (w : Word) : Frame s (s.popFrame.setPc w) [.pc, .sp] :=
  (s.popFrame_Frame.mono (by simp)).trans ((s.popFrame.setPc_Frame w).mono (by simp))

/-- Settles O11: with 1 to 16 frames the top frame exists, and `RET` goes there. -/
theorem returnPopsTopFrame : Obligations.ReturnPopsTopFrame := by
  intro s h1 h16
  obtain ⟨ra, hra⟩ := s.exists_frame h1 h16
  exact ⟨s.popFrame.setPc ra, exec_ret_of_frame hra, hra, State.popFrame_sp_toNat h1, s.popFrame_setPc_Frame ra⟩

/-- Settles O12: `sp` at the end of the stack the instruction moves toward is fault entry, `sp` past 16 the model's stop. -/
theorem stackDepthViolationsFault : Obligations.StackDepthViolationsFault := by
  refine fun nnn s => ⟨fun h => ?_, fun h => ?_, fun h => ⟨exec_call_of_no_frame nnn h, exec_ret_of_no_frame h⟩⟩
  · rw [exec_call_of_full nnn h]; exact exists_raise _ _ s
  · rw [exec_ret_of_empty h]; exact exists_raise _ _ s

/-- Settles O13: the frame pushed by the `CALL` is the top frame for the `RET`. -/
theorem returnUndoesCall : Obligations.ReturnUndoesCall := by
  intro nnn s t t' h ht hsp hstack
  rw [exec_call_of_lt nnn h] at ht
  cases ht
  have htop : t'.frame t'.sp.toNat = some s.pc := by
    rw [State.frame_congr hstack, hsp]; exact State.frame_pushFrame_top s.pc h
  refine ⟨t'.popFrame.setPc s.pc, exec_ret_of_frame htop, rfl, ?_, t'.popFrame_setPc_Frame s.pc⟩
  rw [State.setPc_sp, State.popFrame_sp, hsp]
  exact BitVec.add_sub_cancel s.sp 1

end Sys2Proof.Machine
end

section
/-! O17, O18, O19, O20. The instructions that write a result and a flag (42_alu.md R127 to R131), and `RND` (R132). -/

namespace Sys2Proof.Machine

/-! ### Flags and results as numbers -/

theorem flagByte_carryOut (a b : Byte) : flagByte (carryOut a b) = if a.toNat + b.toNat > 255 then 1 else 0 := by
  simp only [flagByte, carryOut, decide_eq_true_eq]

theorem flagByte_noBorrow (a b : Byte) : flagByte (noBorrow a b) = if a.toNat ≥ b.toNat then 1 else 0 := by
  simp only [flagByte, noBorrow, decide_eq_true_eq]

/-- A bit of a byte as a flag. -/
theorem toNat_flagByte_getLsbD (a : Byte) (k : Nat) : (flagByte (a.getLsbD k)).toNat = a.toNat / 2 ^ k % 2 := by
  rw [BitVec.getLsbD, Nat.testBit_eq_decide_div_mod_eq, flagByte]
  split_ifs with h
  · exact (of_decide_eq_true h).symm
  · simp only [decide_eq_true_eq] at h
    exact (Nat.mod_two_ne_one.1 h).symm

theorem toNat_byte_sub (a b : Byte) : (a - b).toNat = (256 + a.toNat - b.toNat) % 256 := by
  rw [BitVec.toNat_sub]; omega

/-- An instruction whose meaning is a result and a flag answers a next state that holds both, the flag also where the result
was meant for `VF`, and changes nothing else. -/
theorem exec_setResultFlag {i : Instr} {s : State} {x : Nibble} {b : Byte} {f : Bool} {n : Nat} {fl : Byte}
    (hi : exec i s = .next (s.setResultFlag x b f)) (hb : b.toNat = n) (hf : flagByte f = fl) :
    ∃ t, exec i s = .next t ∧ (x ≠ VF → (t.reg x).toNat = n) ∧ t.reg VF = fl ∧ Frame s t [.reg x, .reg VF] := by
  refine ⟨s.setResultFlag x b f, hi, fun hx => ?_, (s.reg_setResultFlag_flag x b f).trans hf, s.setResultFlag_Frame x b f⟩
  rw [State.reg_setResultFlag_result hx, hb]

/-- The same for a flag that is a bit of a register. -/
theorem exec_setResultFlag_bit {i : Instr} {s : State} {x : Nibble} {a b : Byte} {k n m : Nat}
    (hi : exec i s = .next (s.setResultFlag x b (a.getLsbD k))) (hb : b.toNat = n) (hm : a.toNat / 2 ^ k % 2 = m) :
    ∃ t, exec i s = .next t ∧ (x ≠ VF → (t.reg x).toNat = n) ∧ (t.reg VF).toNat = m ∧
      Frame s t [.reg x, .reg VF] := by
  obtain ⟨t, ht, hres, hflag, hframe⟩ := exec_setResultFlag hi hb rfl
  exact ⟨t, ht, hres, by rw [hflag, toNat_flagByte_getLsbD, hm], hframe⟩

/-! ### The statements -/

/-- Settles O17: the byte sum, and the carry of the sum as naturals. -/
theorem addSetsCarry : Obligations.AddSetsCarry := fun x y s =>
  ⟨decodeWord_addReg x y, exec_setResultFlag rfl (BitVec.toNat_add _ _) (flagByte_carryOut (s.reg x) (s.reg y))⟩

/-- Settles O18: the same for the two subtractions, with their operands the other way round. -/
theorem subtractSetsNoBorrow : Obligations.SubtractSetsNoBorrow := fun x y s =>
  ⟨⟨decodeWord_subReg x y, decodeWord_subnReg x y⟩,
    exec_setResultFlag rfl (toNat_byte_sub (s.reg x) (s.reg y)) (flagByte_noBorrow _ _),
    exec_setResultFlag rfl (toNat_byte_sub (s.reg y) (s.reg x)) (flagByte_noBorrow _ _)⟩

/-- Settles O19: the result of a shift by one, and the bit at the end it moves toward. -/
theorem shiftsMoveOneBitIntoFlag : Obligations.ShiftsMoveOneBitIntoFlag := by
  refine fun x y s => ⟨⟨decodeWord_shr x y, decodeWord_shl x y⟩, exec_setResultFlag_bit rfl ?_ ?_,
    exec_setResultFlag_bit rfl ?_ ?_⟩
  · rw [BitVec.toNat_ushiftRight, Nat.shiftRight_eq_div_pow, pow_one]
  · rw [pow_zero, Nat.div_one]
  · rw [BitVec.toNat_shiftLeft, Nat.shiftLeft_eq, pow_one]
  · have := (s.reg x).isLt; omega

/-- Settles O20: one register write, of the bitwise and of the tick's byte and `nn`. -/
theorem randomIsMaskedTickByte : Obligations.RandomIsMaskedTickByte := fun x nn _ =>
  ⟨decodeWord_rnd x nn, exec_setReg_bits rfl fun _ => BitVec.getLsbD_and⟩

end Sys2Proof.Machine
end

section
/-! O22, O23, O33, O34. `ADD I,Vx` and `LD F,Vx` (43_index_memory.md R141, R142), and the instructions that read the keypad
(45_keypad_timers.md R160 to R162). -/

namespace Sys2Proof.Machine

variable {s : State} {x k : Nibble}

/-! ### A register value as a digit or a key number -/

theorem exec_ldFVx_of_digit (h : (s.reg x).toNat = k.val) :
    exec (.ldFVx x) s = .next (s.setI (BitVec.ofNat 16 (s.cfg.fontBase.val + 5 * k.val))) := by
  simp only [exec, execLdFVx, nibbleOfByte_eq_some h]

theorem exec_ldFVx_of_out (h : 15 < (s.reg x).toNat) :
    exec (.ldFVx x) s = raise .fontDigitOutOfRange (.ldFVx x) s := by
  simp only [exec, execLdFVx, nibbleOfByte_eq_none h]

theorem exec_skp_of_key (h : (s.reg x).toNat = k.val) :
    exec (.skp x) s = .next (s.skipIf (s.keyLevel k == .down)) := by
  simp only [exec, execSkp, nibbleOfByte_eq_some h]

theorem exec_skp_of_out (h : 15 < (s.reg x).toNat) : exec (.skp x) s = raise .keyIndexOutOfRange (.skp x) s := by
  simp only [exec, execSkp, nibbleOfByte_eq_none h]

theorem exec_sknp_of_key (h : (s.reg x).toNat = k.val) :
    exec (.sknp x) s = .next (s.skipIf (s.keyLevel k == .up)) := by
  simp only [exec, execSknp, nibbleOfByte_eq_some h]

theorem exec_sknp_of_out (h : 15 < (s.reg x).toNat) : exec (.sknp x) s = raise .keyIndexOutOfRange (.sknp x) s := by
  simp only [exec, execSknp, nibbleOfByte_eq_none h]

/-! ### `LD Vx,K` -/

theorem exec_ldVxK_of_release {rest : List Nibble} (h : s.released = k :: rest) :
    exec (.ldVxK x) s = .next (s.setReg x (BitVec.ofNat 8 k.val)) := by
  simp only [exec, execLdVxK, h]

theorem exec_ldVxK_of_none (h : s.released = []) : exec (.ldVxK x) s = .next (s.setPc (s.pc - 2)) := by
  simp only [exec, execLdVxK, h]

/-- A key number fits in a register. -/
theorem toNat_byte_ofNibble (k : Nibble) : (BitVec.ofNat 8 k.val).toNat = k.val := by
  rw [BitVec.toNat_ofNat]; omega

/-! ### The statements -/

/-- Settles O22: one write of `I` with a 16-bit sum. -/
theorem addToIndexWrapsAtSixteenBits : Obligations.AddToIndexWrapsAtSixteenBits := fun x s =>
  ⟨s.setI (s.I + byteToWord (s.reg x)), rfl, by rw [State.setI_I, BitVec.toNat_add, toNat_byteToWord], s.setI_Frame _⟩

/-- Settles O23: the largest address, 0x1B0 + 5 * 15, fits in `I`. -/
theorem fontAddressOrFault : Obligations.FontAddressOrFault := by
  refine fun x s => ⟨fun h => ?_, fun h => ?_⟩
  · refine ⟨_, exec_ldFVx_of_digit (k := ⟨(s.reg x).toNat, by omega⟩) rfl, ?_, s.setI_Frame _⟩
    have hbase := s.cfg.fontBase.isLt
    rw [State.setI_I, BitVec.toNat_ofNat]
    exact Nat.mod_eq_of_lt (by simp only; omega)
  · rw [exec_ldFVx_of_out h]; exact exists_raise _ _ s

/-- Settles O33: with a key number in `Vx` both meanings are skips on its level, else fault entry. -/
theorem keySkipsTestTheLevel : Obligations.KeySkipsTestTheLevel := by
  refine fun x s => ⟨fun k hk => ?_, fun h => ⟨?_, ?_⟩⟩
  · exact ⟨exec_skip (exec_skp_of_key hk) beq_iff_eq, exec_skip (exec_sknp_of_key hk) beq_iff_eq⟩
  · rw [exec_skp_of_out h]; exact exists_raise _ _ s
  · rw [exec_sknp_of_out h]; exact exists_raise _ _ s

/-- Settles O34: a register write with the oldest release, or one of `pc`. -/
theorem keyWaitTakesOldestRelease : Obligations.KeyWaitTakesOldestRelease := by
  refine fun x s => ⟨fun k rest h => ?_, fun h => ⟨_, exec_ldVxK_of_none h, rfl, s.setPc_Frame _⟩⟩
  obtain ⟨t, ht, hreg, hframe⟩ := exec_setReg (exec_ldVxK_of_release (x := x) h)
  exact ⟨t, ht, by rw [hreg, toNat_byte_ofNibble], hframe⟩

end Sys2Proof.Machine
end

section
/-! O24, O25, O26, O27, O28. The three transfers between registers and memory, in range and out of it (43_index_memory.md
R143 to R145), and what is read back from stored bytes. -/

namespace Sys2Proof.Machine

variable {s t : State} {x r : Nibble}

theorem State.effectiveAddress_eq_add (s : State) (k : Nat) : s.effectiveAddress k = s.effectiveAddress 0 + k := rfl

/-! ### The instructions by their range check -/

theorem exec_ldBVx_of_le (h : s.effectiveAddress 2 ≤ 0xFFF) :
    exec (.ldBVx x) s = .next (s.setBytes (s.effectiveAddress 0) (decimalDigits (s.reg x))) :=
  checkedData_ok h _ _ _

theorem exec_ldBVx_of_out (h : 0xFFF < s.effectiveAddress 2) :
    exec (.ldBVx x) s = raise .dataOutOfRange (.ldBVx x) s :=
  checkedData_out h _ _ _

theorem exec_ldMemVx_of_le (h : s.effectiveAddress x.val ≤ 0xFFF) :
    exec (.ldMemVx x) s = .next (s.setBytes (s.effectiveAddress 0) (s.regsUpTo x)) :=
  checkedData_ok h _ _ _

theorem exec_ldMemVx_of_out (h : 0xFFF < s.effectiveAddress x.val) :
    exec (.ldMemVx x) s = raise .dataOutOfRange (.ldMemVx x) s :=
  checkedData_out h _ _ _

theorem exec_ldVxMem_of_le (h : s.effectiveAddress x.val ≤ 0xFFF) :
    exec (.ldVxMem x) s = .next (s.setRegs (s.regsFromMemory x)) :=
  checkedData_ok h _ _ _

theorem exec_ldVxMem_of_out (h : 0xFFF < s.effectiveAddress x.val) :
    exec (.ldVxMem x) s = raise .dataOutOfRange (.ldVxMem x) s :=
  checkedData_out h _ _ _

/-! ### Stored bytes -/

theorem State.setBytes_byteAt_stored (s : State) (a : Nat) {bs : List Byte} {k : Nat} (hk : k < bs.length) :
    (s.setBytes a bs).byteAt (a + k) = bs[k] := by
  rw [State.setBytes_byteAt, if_pos (by omega), Nat.add_sub_cancel_left, List.getD_eq_getElem bs 0 hk]

theorem State.setBytes_MemoryOutside (s : State) (a : Nat) (bs : List Byte) :
    MemoryOutside s (s.setBytes a bs) a bs.length := fun b hb => by
  rw [State.setBytes_byteAt, if_neg (by omega)]

theorem State.length_regsUpTo (s : State) (x : Nibble) : (s.regsUpTo x).length = x.val + 1 := by
  rw [State.regsUpTo, List.length_take, Vector.length_toList]; omega

theorem State.getElem_regsUpTo (s : State) (x r : Nibble) (h : r.val < (s.regsUpTo x).length) :
    (s.regsUpTo x)[r.val] = s.reg r := by
  simp only [State.regsUpTo, State.reg, List.getElem_take, Vector.getElem_toList]

/-- The stored register `r` is the byte at `I + r`. -/
theorem State.byteAt_store_regsUpTo (s : State) (h : r ≤ x) :
    (s.setBytes (s.effectiveAddress 0) (s.regsUpTo x)).byteAt (s.effectiveAddress r.val) = s.reg r := by
  have hr : r.val < (s.regsUpTo x).length := by rw [s.length_regsUpTo]; exact Nat.lt_succ_of_le h
  rw [s.effectiveAddress_eq_add r.val, s.setBytes_byteAt_stored _ hr, s.getElem_regsUpTo]

/-- Loading `V0` to `Vx` leaves everything but these registers. -/
theorem State.setRegs_regsFromMemory_Frame (s : State) (x : Nibble) : Frame s (s.setRegs (s.regsFromMemory x))
    (((List.finRange 16).filter (fun r => decide (r ≤ x))).map Piece.reg) := by
  intro p hp
  cases p with
  | reg r =>
    have hr : ¬ r ≤ x := by simpa using hp
    exact (s.reg_setRegs_fromMemory x r).trans (if_neg hr)
  | _ => simp [Piece.same]

/-! ### The statements -/

/-- Settles O24: three bytes from `I` on, each a digit below 10. -/
theorem decimalStoreWritesThreeDigits : Obligations.DecimalStoreWritesThreeDigits := by
  refine fun x s => ⟨fun h => ?_, fun h => ?_⟩
  · have hdigit (k : Nat) (hk : k < 3) := s.setBytes_byteAt_stored (s.effectiveAddress 0)
      (bs := decimalDigits (s.reg x)) hk
    have hlt := (s.reg x).isLt
    refine ⟨_, exec_ldBVx_of_le h, ?_, ?_, ?_, s.setBytes_MemoryOutside _ _, s.setBytes_Frame _ _⟩
    · refine (congrArg BitVec.toNat (hdigit 0 (by decide))).trans (Nat.mod_eq_of_lt ?_); omega
    · refine (congrArg BitVec.toNat (hdigit 1 (by decide))).trans (Nat.mod_eq_of_lt ?_); omega
    · refine (congrArg BitVec.toNat (hdigit 2 (by decide))).trans (Nat.mod_eq_of_lt ?_); omega
  · rw [exec_ldBVx_of_out h]; exact exists_raise _ _ s

/-- Settles O25: `x + 1` bytes from `I` on, the registers in order. -/
theorem registerStoreWritesRange : Obligations.RegisterStoreWritesRange := by
  refine fun x s => ⟨fun h => ?_, fun h => ?_⟩
  · refine ⟨_, exec_ldMemVx_of_le h, fun r hr => s.byteAt_store_regsUpTo hr, ?_, s.setBytes_Frame _ _⟩
    rw [← s.length_regsUpTo x]
    exact s.setBytes_MemoryOutside _ _
  · rw [exec_ldMemVx_of_out h]; exact exists_raise _ _ s

/-- Settles O26: the new register file is read from memory up to `x`. -/
theorem registerLoadReadsRange : Obligations.RegisterLoadReadsRange := by
  refine fun x s => ⟨fun h => ?_, fun h => ?_⟩
  · exact ⟨_, exec_ldVxMem_of_le h, fun r hr => (s.reg_setRegs_fromMemory x r).trans (if_pos hr),
      s.setRegs_regsFromMemory_Frame x⟩
  · rw [exec_ldVxMem_of_out h]; exact exists_raise _ _ s

/-- Settles O27: with `I` unmoved, the load reads the bytes the store wrote. -/
theorem registerLoadUndoesStore : Obligations.RegisterLoadUndoesStore := by
  intro x s t t' h ht hmem hI
  rw [exec_ldMemVx_of_le h] at ht
  cases ht
  have hEA (k : Nat) : t'.effectiveAddress k = s.effectiveAddress k := by
    rw [State.effectiveAddress, hI, State.setBytes_I, State.effectiveAddress]
  refine ⟨_, exec_ldVxMem_of_le ((hEA x.val).trans_le h), fun r hr => ?_⟩
  rw [State.reg_setRegs_fromMemory, if_pos hr, hEA, hmem, s.byteAt_store_regsUpTo hr]

/-- Settles O28: the bytes stored from `V0` and `V1` are the two bytes of the word at `I`. -/
theorem storedWordIsFetched : Obligations.StoredWordIsFetched := by
  intro x s t hx h ht u hmem hpc
  rw [exec_ldMemVx_of_le h] at ht
  cases ht
  have hrange : u.pc.toNat ≤ 0xFFE := by
    rw [hpc]; simp only [State.effectiveAddress] at h; omega
  have hbyte (r : Nibble) (hr : r ≤ x) : u.byteAt (u.pc.toNat + r.val) = s.reg r := by
    rw [hmem, hpc]; exact s.byteAt_store_regsUpTo hr
  rw [fetch_eq_some hrange, State.wordAt]
  congr 2
  · exact hbyte 0 (Fin.zero_le x)
  · exact hbyte 1 hx

end Sys2Proof.Machine
end

section
/-! O30, O32. `DRW` pixel by pixel (44_display.md R152 to R156), once and twice. -/

namespace Sys2Proof.Machine

variable {s : State} {x y n : Nibble}

/-- The mask `DRW Vx,Vy,n` draws with: the clipped sprite at its wrapped origin. -/
def State.drawMask (s : State) (x y n : Nibble) : Framebuffer :=
  s.spriteMask (s.spriteOrigin x y).1 (s.spriteOrigin x y).2 n.val

theorem State.draw_eq (s : State) (x y n : Nibble) : s.draw x y n =
    (s.setPixels (s.pixels.flip (s.drawMask x y n))).setReg VF (flagByte (collides s.pixels (s.drawMask x y n))) := rfl

/-- On the grid the mask is the sprite of the rule. -/
theorem State.pixel_drawMask {px py : Nat} (hx : px < 64) (hy : py < 32) :
    (s.drawMask x y n).pixel px py = true ↔ s.spriteOn x y n px py := by
  rw [State.drawMask, pixel_spriteMask]
  simp only [State.spriteOn, State.spriteOrigin, State.effectiveAddress, hx, hy, true_and]

theorem State.display_draw (s : State) (x y n : Nibble) (px py : Nat) :
    (s.draw x y n).display px py = (s.display px py ^^ (s.drawMask x y n).pixel px py) := by
  rw [State.draw_eq, State.display, State.setReg_pixels, State.setPixels_pixels, pixel_flip, State.display]

theorem State.reg_VF_draw (s : State) (x y n : Nibble) :
    (s.draw x y n).reg VF = flagByte (collides s.pixels (s.drawMask x y n)) := by
  rw [State.draw_eq, State.reg_setReg_same]

theorem flagByte_eq_one {b : Bool} : flagByte b = 1 ↔ b = true := by
  cases b <;> decide

/-! ### The instruction by its range check -/

theorem exec_drw_of_le (h : n.val = 0 ∨ s.effectiveAddress (n.val - 1) ≤ 0xFFF) :
    exec (.drw x y n) s = .next (s.draw x y n) := by
  simp only [exec, execDrw]
  split_ifs with hn
  · rfl
  · exact checkedData_ok (h.resolve_left hn) _ _ _

theorem exec_drw_of_out (hn : n.val ≠ 0) (h : 0xFFF < s.effectiveAddress (n.val - 1)) :
    exec (.drw x y n) s = raise .dataOutOfRange (.drw x y n) s := by
  simp only [exec, execDrw]
  rw [if_neg hn, checkedData_out h]

/-- The collision flag: some lit pixel lies under the sprite. -/
theorem State.collides_drawMask (s : State) (fb : Framebuffer) (x y n : Nibble) :
    collides fb (s.drawMask x y n) = true ↔
      ∃ px py, px < 64 ∧ py < 32 ∧ fb.pixel px py = true ∧ s.spriteOn x y n px py := by
  rw [collides_iff]
  refine exists_congr fun px => exists_congr fun py => and_congr_right fun hx => and_congr_right fun hy => ?_
  rw [State.pixel_drawMask hx hy]

/-- Settles O30: the draw is `old ^ mask`, and the mask is the sprite. -/
theorem drawInvertsSpritePixels : Obligations.DrawInvertsSpritePixels := by
  classical
  refine fun x y n s => ⟨fun h => ⟨_, exec_drw_of_le h, fun px py hx hy => ?_, ?_, s.draw_Frame x y n⟩, fun hn h => ?_⟩
  · rw [State.display_draw, ← State.pixel_drawMask hx hy, Bool.xor_iff_ne, ne_eq, Bool.eq_iff_iff]
  · rw [State.reg_VF_draw, flagByte]
    exact if_congr (s.collides_drawMask s.pixels x y n) rfl rfl
  · rw [exec_drw_of_out hn h]; exact exists_raise _ _ s

/-! ### The same draw again -/

/-- The mask depends on the two registers, `I` and memory. -/
theorem State.drawMask_congr {s t : State} (n : Nibble) (hx : t.reg x = s.reg x) (hy : t.reg y = s.reg y) (hI : t.I = s.I)
    (hmem : ∀ a, t.byteAt a = s.byteAt a) : t.drawMask x y n = s.drawMask x y n := by
  simp only [State.drawMask, State.spriteOrigin, hx, hy]
  refine Framebuffer.ext_pixel fun px py => Bool.eq_iff_iff.2 ?_
  simp only [pixel_spriteMask, State.effectiveAddress, hmem, hI]

/-- A draw that does not read `VF` leaves its own mask as it was. -/
theorem State.drawMask_draw (s : State) (n : Nibble) (hx : x ≠ VF) (hy : y ≠ VF) :
    (s.draw x y n).drawMask x y n = s.drawMask x y n := by
  have hframe := s.draw_Frame x y n
  exact State.drawMask_congr n (hframe (.reg x) (by simpa using hx)) (hframe (.reg y) (by simpa using hy))
    (hframe .I (by decide)) (hframe .mem (by decide))

/-- Settles O32: the second draw has the mask of the first, so its pixels are `old ^ mask ^ mask`, and a pixel under the mask
is lit before it exactly if it was off before the first. -/
theorem drawTwiceRestoresPixels : Obligations.DrawTwiceRestoresPixels := by
  intro x y n s t hx hy h ht
  rw [exec_drw_of_le h] at ht
  cases ht
  have hI : (s.draw x y n).I = s.I := s.draw_Frame x y n .I (by decide)
  refine ⟨(s.draw x y n).draw x y n, exec_drw_of_le (by simpa only [State.effectiveAddress, hI] using h),
    fun px py => ?_, ?_⟩
  · rw [State.display_draw, State.drawMask_draw s n hx hy, State.display_draw, Bool.xor_assoc, Bool.xor_self,
      Bool.xor_false]
  · rw [State.reg_VF_draw, flagByte_eq_one, State.drawMask_draw s n hx hy, State.collides_drawMask]
    refine exists_congr fun px => exists_congr fun py => and_congr_right fun hpx => and_congr_right fun hpy => ?_
    rw [and_comm]
    refine and_congr_right fun hon => ?_
    have hlit := s.display_draw x y n px py
    rw [(State.pixel_drawMask hpx hpy).2 hon, Bool.xor_true] at hlit
    rw [← State.display, hlit, Bool.not_eq_true']

end Sys2Proof.Machine
end

section
/-! O31. The loop of R152 against the mask of R156 (g): after each bit and each row of the loop, the framebuffer is the first
one with the points passed so far inverted, and the flag says whether a lit one was among them. -/

namespace Sys2Proof.Machine

/-- The pair is `fb` with the points of `P` inverted, and whether a lit point of `fb` was among them. -/
def DrawnOver (fb : Framebuffer) (P : Nat → Nat → Prop) (fv : Framebuffer × Bool) : Prop :=
  (∀ px py, fv.1.pixel px py = true ↔ ¬(fb.pixel px py = true ↔ P px py)) ∧
  (fv.2 = true ↔ ∃ px py, fb.pixel px py = true ∧ P px py)

variable {fb : Framebuffer} {P Q : Nat → Nat → Prop} {fv : Framebuffer × Bool} {px py : Nat}

theorem DrawnOver.congr (h : DrawnOver fb P fv) (hPQ : ∀ px py, P px py ↔ Q px py) : DrawnOver fb Q fv := by
  have : P = Q := funext fun px => funext fun py => propext (hPQ px py)
  exact this ▸ h

theorem DrawnOver.nothing (fb : Framebuffer) : DrawnOver fb (fun _ _ => False) (fb, false) := by
  constructor <;> simp

/-- Inverting the 1 bits of a mask is what `old ^ mask` and the collision give. -/
theorem DrawnOver.eq_mask {m : Framebuffer} (h : DrawnOver fb (fun px py => m.pixel px py = true) fv) :
    fv = (fb.flip m, collides fb m) := by
  obtain ⟨hpix, hflag⟩ := h
  refine Prod.ext (Framebuffer.ext_pixel fun px py => ?_) (Bool.eq_iff_iff.2 ?_)
  · rw [pixel_flip, Bool.eq_iff_iff, hpix, Bool.xor_iff_ne, ne_eq, ← Bool.eq_iff_iff]
  · rw [hflag, collides_iff]
    refine exists_congr fun px => exists_congr fun py => ⟨fun ⟨hfb, hm⟩ => ?_, fun ⟨_, _, hb⟩ => hb⟩
    by_contra hc
    refine absurd hm (Bool.eq_false_iff.1 (m.pixel_off_grid ?_))
    by_contra ho
    exact hc ⟨by omega, by omega, hfb, hm⟩

/-! ### One point -/

/-- Bit 63 - `px` of a row is its pixel `px`, and it alone is written. -/
theorem getMsbD_writeBit (row : BitVec 64) (hx : px < 64) (v : Bool) (a : Nat) :
    (if v then row ||| BitVec.twoPow 64 (63 - px) else row &&& ~~~BitVec.twoPow 64 (63 - px)).getMsbD a
      = if a = px then v else row.getMsbD a := by
  by_cases ha : a < 64
  · have hlt : 63 - a < 64 := by omega
    by_cases hax : a = px
    · cases v <;> simp [BitVec.getMsbD, ← hax, ha, hlt]
    · have hbit : 63 - a ≠ 63 - px := by omega
      cases v <;> simp [BitVec.getMsbD, ha, hlt, hbit, hax]
  · rw [BitVec.getMsbD_of_ge _ _ (by omega), BitVec.getMsbD_of_ge _ _ (by omega), if_neg (by omega)]

theorem Framebuffer.pixel_set (fb : Framebuffer) (hy : py < 32) (row : BitVec 64) (a b : Nat) :
    Framebuffer.pixel (fb.set py row) a b = if b = py then row.getMsbD a else fb.pixel a b := by
  simp only [Framebuffer.pixel, Vector.getElem_set, @eq_comm _ py b]
  split_ifs with hb hpy hpy
  · rfl
  · rfl
  · exact absurd hy (hpy ▸ hb)
  · rfl

theorem Framebuffer.pixel_setPixel (fb : Framebuffer) (hx : px < 64) (hy : py < 32) (v : Bool) (a b : Nat) :
    (fb.setPixel px py v).pixel a b = if a = px ∧ b = py then v else fb.pixel a b := by
  rw [Framebuffer.setPixel, dif_pos hy, Framebuffer.pixel_set, getMsbD_writeBit _ hx]
  by_cases hb : b = py
  · simp [hb, Framebuffer.pixel, hy]
  · simp [hb]

theorem DrawnOver.invert (h : DrawnOver fb P fv) (hx : px < 64) (hy : py < 32) (hP : ¬P px py) :
    DrawnOver fb (fun a b => P a b ∨ a = px ∧ b = py)
      (fv.1.setPixel px py (!fv.1.pixel px py), fv.2 || fv.1.pixel px py) := by
  obtain ⟨hpix, hflag⟩ := h
  have hold : fv.1.pixel px py = fb.pixel px py := by
    rw [Bool.eq_iff_iff, hpix]; simp [hP]
  constructor
  · intro a b
    rw [Framebuffer.pixel_setPixel _ hx hy]
    split_ifs with hab
    · obtain ⟨rfl, rfl⟩ := hab
      simp [hold]
    · simp only [hpix, hab, or_false]
  · rw [Bool.or_eq_true, hflag, hold]
    simp [and_or_left, exists_or]

/-- The body of the loop over `c`, where the bit is drawn. -/
theorem drawBit_of_drawn {ox c : Nat} {b : Byte} (h : ox + c ≤ 63 ∧ b.getLsbD (7 - c) = true) :
    drawBit ox py b fv c =
      (fv.1.setPixel (ox + c) py (!fv.1.pixel (ox + c) py), fv.2 || fv.1.pixel (ox + c) py) := by
  rw [drawBit, if_pos h]
  cases fv.1.pixel (ox + c) py <;> simp

/-- Bit `7 - c` of a sprite row lies on the point. -/
def RowPoint (ox py : Nat) (b : Byte) (k px py' : Nat) : Prop :=
  py' = py ∧ ∃ c < k, px = ox + c ∧ ox + c ≤ 63 ∧ b.getLsbD (7 - c) = true

theorem rowPoint_succ (ox py : Nat) (b : Byte) (k px py' : Nat) : RowPoint ox py b (k + 1) px py' ↔
    RowPoint ox py b k px py' ∨ (px = ox + k ∧ py' = py) ∧ ox + k ≤ 63 ∧ b.getLsbD (7 - k) = true := by
  rw [RowPoint, Nat.exists_lt_succ_right, and_or_left, and_left_comm, and_assoc, RowPoint]

/-- One sprite row: the first `k` of its bits. -/
theorem DrawnOver.row {ox : Nat} {b : Byte} (h : DrawnOver fb P fv) (hy : py < 32) (hP : ∀ px, ¬P px py) (k : Nat) :
    DrawnOver fb (fun px py' => P px py' ∨ RowPoint ox py b k px py') ((List.range k).foldl (drawBit ox py b) fv) := by
  induction k with
  | zero => exact h.congr fun px py' => by simp [RowPoint]
  | succ k ih =>
    rw [List.range_succ, List.foldl_append, List.foldl_cons, List.foldl_nil]
    by_cases hk : ox + k ≤ 63 ∧ b.getLsbD (7 - k) = true
    · rw [drawBit_of_drawn hk]
      have hnew : ¬(P (ox + k) py ∨ RowPoint ox py b k (ox + k) py) := by
        rintro (hp | ⟨-, c, hc, heq, -⟩)
        · exact hP _ hp
        · omega
      refine (ih.invert (by omega) hy hnew).congr fun px py' => ?_
      rw [rowPoint_succ, and_iff_left hk, or_assoc]
    · rw [drawBit, if_neg hk]
      refine ih.congr fun px py' => ?_
      rw [rowPoint_succ, or_iff_left (a := RowPoint ox py b k px py') fun hbit => hk hbit.2]

/-! ### The rows of the sprite -/

/-- The points of a whole sprite row: eight columns from `ox` on, clipped at the right edge. -/
theorem rowPoint_eight (ox py : Nat) (b : Byte) (px py' : Nat) : RowPoint ox py b 8 px py' ↔
    py' = py ∧ ox ≤ px ∧ px < ox + 8 ∧ px < 64 ∧ b.getLsbD (7 - (px - ox)) = true := by
  refine and_congr_right fun _ => ⟨?_, fun ⟨hlo, hhi, h64, hbit⟩ => ⟨px - ox, by omega, by omega, by omega, hbit⟩⟩
  rintro ⟨c, hc, rfl, h63, hbit⟩
  exact ⟨by omega, by omega, by omega, by rwa [Nat.add_sub_cancel_left]⟩

/-- A sprite of one row more has that row's points more, if the row lies on the grid. -/
theorem pixel_spriteMask_succ (s : State) (ox oy r px py : Nat) :
    (s.spriteMask ox oy (r + 1)).pixel px py = true ↔ (s.spriteMask ox oy r).pixel px py = true ∨
      oy + r ≤ 31 ∧ RowPoint ox (oy + r) (s.byteAt (s.effectiveAddress r)) 8 px py := by
  rw [pixel_spriteMask, pixel_spriteMask, rowPoint_eight]
  by_cases hr : py = oy + r
  · subst hr
    rw [Nat.add_sub_cancel_left]
    refine ⟨fun ⟨h64, h32, hlo, hhi, _, _, hbit⟩ => .inr ⟨by omega, rfl, hlo, hhi, h64, hbit⟩, ?_⟩
    rintro (⟨-, -, -, -, -, hlt, -⟩ | ⟨h31, -, hlo, hhi, h64, hbit⟩)
    · omega
    · exact ⟨h64, by omega, hlo, hhi, by omega, by omega, hbit⟩
  · have hlt : py < oy + (r + 1) ↔ py < oy + r := by omega
    simp only [hlt, hr, false_and, and_false, or_false]

/-- The body of the loop over `r`. -/
theorem DrawnOver.drawLine {s : State} {ox oy r : Nat}
    (h : DrawnOver fb (fun px py => (s.spriteMask ox oy r).pixel px py = true) fv) :
    DrawnOver fb (fun px py => (s.spriteMask ox oy (r + 1)).pixel px py = true) (s.drawLine ox oy fv r) := by
  rw [State.drawLine]
  split_ifs with hclip
  · refine h.congr fun px py => ?_
    rw [pixel_spriteMask_succ]
    exact (or_iff_left fun hr => absurd hr.1 (by omega)).symm
  · have hrow (px : Nat) : ¬(s.spriteMask ox oy r).pixel px (oy + r) = true := by
      rw [pixel_spriteMask]; omega
    refine (h.row (by omega) hrow 8).congr fun px py => ?_
    rw [pixel_spriteMask_succ]
    exact or_congr_right (and_iff_right (by omega)).symm

theorem State.drawLoop_drawnOver (s : State) (ox oy n : Nat) :
    DrawnOver s.pixels (fun px py => (s.spriteMask ox oy n).pixel px py = true) (s.drawLoop ox oy n) := by
  induction n with
  | zero =>
    refine (DrawnOver.nothing s.pixels).congr fun px py => (iff_false_intro ?_).symm
    rw [pixel_spriteMask]; omega
  | succ r ih =>
    rw [State.drawLoop, List.range_succ, List.foldl_append]
    exact ih.drawLine

/-- Settles O31: after the last row the points passed are the 1 bits of the mask. -/
theorem drawLoopEqualsMask : Obligations.DrawLoopEqualsMask := fun s ox oy n => (s.drawLoop_drawnOver ox oy n).eq_mask

end Sys2Proof.Machine
end

section
/-! O57. What each instruction does when it raises no fault, as a function of the state; what `exec` can answer, said once
for all instructions; and the pieces an instruction leaves alone (10_state.md R37). -/

namespace Sys2Proof.Machine

variable {i : Instr} {s t : State} {p : Piece}

/-- The index a register value names, where it names one. -/
def indexOf (b : Byte) : Nibble := (nibbleOfByte b).getD 0

/-- `LD Vx,K`: the oldest release into `Vx`, or `pc` back to the instruction (45_keypad_timers.md R162). -/
def State.awaitKey (s : State) (x : Nibble) : State :=
  match s.released with
  | k :: _ => s.setReg x (BitVec.ofNat 8 k.val)
  | [] => s.setPc (s.pc - 2)

theorem State.awaitKey_Frame (s : State) (x : Nibble) : Frame s (s.awaitKey x) [.reg x, .pc] := by
  unfold State.awaitKey
  split
  · exact (s.setReg_Frame x _).mono (by simp)
  · exact (s.setPc_Frame _).mono (by simp)

/-- The state an instruction leaves when it raises no fault. -/
def effect (i : Instr) (s : State) : State :=
  match i with
  | .cls => s.setPixels blankScreen
  | .ret => s.popFrame.setPc ((s.frame s.sp.toNat).getD 0)
  | .jp nnn => s.setPc (addrToWord nnn)
  | .call nnn => (s.pushFrame s.pc).setPc (addrToWord nnn)
  | .seByte x nn => s.skipIf (s.reg x == nn)
  | .sneByte x nn => s.skipIf (s.reg x != nn)
  | .seReg x y => s.skipIf (s.reg x == s.reg y)
  | .sneReg x y => s.skipIf (s.reg x != s.reg y)
  | .ldByte x nn => s.setReg x nn
  | .addByte x nn => s.setReg x (s.reg x + nn)
  | .ldReg x y => s.setReg x (s.reg y)
  | .orReg x y => s.setReg x (s.reg x ||| s.reg y)
  | .andReg x y => s.setReg x (s.reg x &&& s.reg y)
  | .xorReg x y => s.setReg x (s.reg x ^^^ s.reg y)
  | .addReg x y => s.setResultFlag x (s.reg x + s.reg y) (carryOut (s.reg x) (s.reg y))
  | .subReg x y => s.setResultFlag x (s.reg x - s.reg y) (noBorrow (s.reg x) (s.reg y))
  | .shr x _ => s.setResultFlag x (s.reg x >>> 1) (lowBit (s.reg x))
  | .subnReg x y => s.setResultFlag x (s.reg y - s.reg x) (noBorrow (s.reg y) (s.reg x))
  | .shl x _ => s.setResultFlag x (s.reg x <<< 1) (highBit (s.reg x))
  | .ldI nnn => s.setI (addrToWord nnn)
  | .jpV0 nnn => s.setPc (addrToWord nnn + byteToWord (s.reg 0))
  | .rnd x nn => s.setReg x (s.rnd &&& nn)
  | .drw x y n => s.draw x y n
  | .skp x => s.skipIf (s.keyLevel (indexOf (s.reg x)) == .down)
  | .sknp x => s.skipIf (s.keyLevel (indexOf (s.reg x)) == .up)
  | .ldVxDT x => s.setReg x s.DT
  | .ldVxK x => s.awaitKey x
  | .ldDTVx x => s.setDT (s.reg x)
  | .ldSTVx x => s.setST (s.reg x)
  | .addIVx x => s.setI (s.I + byteToWord (s.reg x))
  | .ldFVx x => s.setI (BitVec.ofNat 16 (s.cfg.fontBase.val + 5 * (indexOf (s.reg x)).val))
  | .ldBVx x => s.setBytes (s.effectiveAddress 0) (decimalDigits (s.reg x))
  | .ldMemVx x => s.setBytes (s.effectiveAddress 0) (s.regsUpTo x)
  | .ldVxMem x => s.setRegs (s.regsFromMemory x)

/-- The instructions that use a frame of the call stack, and stop where `sp` names none (log entry 2). -/
def usesFrame : Instr → Bool
  | .ret | .call _ => true
  | _ => false

/-- What `exec` can answer, with the reason for each answer. -/
def Answers (i : Instr) (s : State) : Prop :=
  (∃ c : FaultCause, faultCode i s = some c.code ∧ exec i s = raise c i s) ∨
  (faultCode i s = none ∧ usesFrame i = true ∧ 16 < s.sp.toNat ∧ exec i s = .fault (.noSuchFrame s.sp)) ∨
  (faultCode i s = none ∧ exec i s = .next (effect i s))

theorem Answers.raised (c : FaultCause) (hf : faultCode i s = some c.code) (h : exec i s = raise c i s) : Answers i s :=
  .inl ⟨c, hf, h⟩

theorem Answers.stopped (hf : faultCode i s = none) (hu : usesFrame i = true) (hsp : 16 < s.sp.toNat)
    (h : exec i s = .fault (.noSuchFrame s.sp)) : Answers i s :=
  .inr (.inl ⟨hf, hu, hsp, h⟩)

theorem Answers.done (hf : faultCode i s = none) (h : exec i s = .next (effect i s)) : Answers i s := .inr (.inr ⟨hf, h⟩)

theorem indexOf_eq {b : Byte} {k : Nibble} (h : b.toNat = k.val) : indexOf b = k := by
  rw [indexOf, nibbleOfByte_eq_some h, Option.getD_some]

theorem answers_call (nnn : Addr) (s : State) : Answers (.call nnn) s := by
  rcases Nat.lt_trichotomy s.sp.toNat 16 with h | h | h
  · exact .done (if_neg fun hc => by simp [hc] at h) (exec_call_of_lt nnn h)
  · have h16 : s.sp = 16 := BitVec.eq_of_toNat_eq h
    exact .raised .stackOverflow (if_pos h16) (exec_call_of_full nnn h16)
  · exact .stopped (if_neg fun hc => by simp [hc] at h) rfl h (exec_call_of_no_frame nnn h)

theorem answers_ret (s : State) : Answers .ret s := by
  rcases Nat.eq_zero_or_pos s.sp.toNat with h | h
  · have h0 : s.sp = 0 := BitVec.eq_of_toNat_eq h
    exact .raised .stackUnderflow (if_pos h0) (exec_ret_of_empty h0)
  · have hf : faultCode .ret s = none := if_neg fun hc => by simp [hc] at h
    rcases Nat.lt_or_ge 16 s.sp.toNat with h16 | h16
    · exact .stopped hf rfl h16 (exec_ret_of_no_frame h16)
    · obtain ⟨ra, hra⟩ := s.exists_frame h h16
      exact .done hf (by rw [exec_ret_of_frame hra, effect, hra, Option.getD_some])

/-- An instruction that takes `Vx` as an index into 16 things. -/
theorem answers_of_index {x : Nibble} {c : FaultCause}
    (hf : faultCode i s = if (s.reg x).toNat > 0x0F then some c.code else none)
    (hout : 15 < (s.reg x).toNat → exec i s = raise c i s)
    (hin : ∀ k : Nibble, (s.reg x).toNat = k.val → exec i s = .next (effect i s)) : Answers i s := by
  rcases Nat.lt_or_ge 15 (s.reg x).toNat with h | h
  · exact .raised c (hf.trans (if_pos h)) (hout h)
  · exact .done (hf.trans (if_neg (Nat.not_lt.2 h))) (hin ⟨(s.reg x).toNat, Nat.lt_succ_of_le h⟩ rfl)

/-- An instruction that checks a range of memory first. -/
theorem answers_of_checkedData {a : Nat} (hf : faultCode i s = if a > 0xFFF then some 4 else none)
    (h : exec i s = checkedData a i s (effect i s)) : Answers i s := by
  rcases Nat.lt_or_ge 0xFFF a with ha | ha
  · exact .raised .dataOutOfRange (hf.trans (if_pos ha)) (h.trans (checkedData_out ha _ _ _))
  · exact .done (hf.trans (if_neg (Nat.not_lt.2 ha))) (h.trans (checkedData_ok ha _ _ _))

theorem answers_drw (x y n : Nibble) (s : State) : Answers (.drw x y n) s := by
  by_cases hn : n.val = 0
  · exact .done (if_neg (by omega)) (exec_drw_of_le (.inl hn))
  · refine answers_of_checkedData (a := s.effectiveAddress (n.val - 1)) (if_congr ?_ rfl rfl) ?_
    · simp only [State.effectiveAddress]; omega
    · simp only [exec, execDrw, if_neg hn, effect]

theorem answers_ldVxK (x : Nibble) (s : State) : Answers (.ldVxK x) s := by
  refine .done rfl ?_
  cases h : s.released with
  | nil => simp only [exec_ldVxK_of_none h, effect, State.awaitKey, h]
  | cons k rest => simp only [exec_ldVxK_of_release h, effect, State.awaitKey, h]

/-- Every instruction in every state: it raises the fault of its row of the table (60_exceptions.md R173); or the table
gives none, and it has its effect, or stops for want of a frame. -/
theorem exec_answers (i : Instr) (s : State) : Answers i s := by
  cases i with
  | ret => exact answers_ret s
  | call nnn => exact answers_call nnn s
  | skp x => exact answers_of_index rfl exec_skp_of_out fun k hk => by rw [exec_skp_of_key hk, effect, indexOf_eq hk]
  | sknp x => exact answers_of_index rfl exec_sknp_of_out fun k hk => by rw [exec_sknp_of_key hk, effect, indexOf_eq hk]
  | ldFVx x =>
    exact answers_of_index rfl exec_ldFVx_of_out fun k hk => by rw [exec_ldFVx_of_digit hk, effect, indexOf_eq hk]
  | ldBVx x => exact answers_of_checkedData rfl rfl
  | ldMemVx x => exact answers_of_checkedData rfl rfl
  | ldVxMem x => exact answers_of_checkedData rfl rfl
  | drw x y n => exact answers_drw x y n s
  | ldVxK x => exact answers_ldVxK x s
  | _ => exact .done rfl rfl

/-- A next state is that of fault entry, with the latch written, or the instruction's effect. -/
theorem exec_eq_next (h : exec i s = .next t) :
    (∃ c : FaultCause, faultCode i s = some c.code ∧ raise c i s = .next t) ∨ (faultCode i s = none ∧ t = effect i s) := by
  rcases exec_answers i s with ⟨c, hf, he⟩ | ⟨-, -, -, he⟩ | ⟨hf, he⟩ <;> rw [he] at h
  · exact .inl ⟨c, hf, h⟩
  · cases h
  · cases h; exact .inr ⟨hf, rfl⟩

/-! ### What an effect leaves alone -/

/-- A piece the row does not mark as written is as before. -/
theorem effect_same (i : Instr) (s : State) (hp : mayWrite i p = false) : p.same s (effect i s) := by
  cases i
  case cls => exact s.setPixels_Frame _ p (by simpa [mayWrite] using hp)
  case ret => exact s.popFrame_setPc_Frame _ p (by simpa [mayWrite] using hp)
  case jp | jpV0 => exact s.setPc_Frame _ p (by simpa [mayWrite] using hp)
  case call =>
    refine Piece.same_trans (s.pushFrame_Frame s.pc p ?_) (State.setPc_Frame _ _ p ?_) <;> simp_all [mayWrite]
  case seByte | sneByte | seReg | sneReg | skp | sknp => exact s.skipIf_Frame _ p (by simpa [mayWrite] using hp)
  case ldByte | addByte | ldReg | orReg | andReg | xorReg | rnd | ldVxDT =>
    exact s.setReg_Frame _ _ p (by simpa [mayWrite] using hp)
  case addReg | subReg | shr | subnReg | shl => exact s.setResultFlag_Frame _ _ _ p (by simpa [mayWrite] using hp)
  case ldI | addIVx | ldFVx => exact s.setI_Frame _ p (by simpa [mayWrite] using hp)
  case drw => exact s.draw_Frame _ _ _ p (by simpa [mayWrite] using hp)
  case ldVxK => exact s.awaitKey_Frame _ p (by simpa [mayWrite] using hp)
  case ldDTVx => exact s.setDT_Frame _ p (by simpa [mayWrite] using hp)
  case ldSTVx => exact s.setST_Frame _ p (by simpa [mayWrite] using hp)
  case ldBVx | ldMemVx => exact s.setBytes_Frame _ _ p (by simpa [mayWrite] using hp)
  case ldVxMem =>
    refine s.setRegs_regsFromMemory_Frame _ p fun hmem => ?_
    obtain ⟨r, hr, rfl⟩ := List.mem_map.1 hmem
    simp_all [mayWrite]

theorem mayWrite_fault (i : Instr) : mayWrite i .fault = false := by cases i <;> rfl

/-- An effect keeps the latch. -/
theorem effect_fault (i : Instr) (s : State) : (effect i s).fault = s.fault := effect_same i s (mayWrite_fault i)

/-- A next state with no fault latched is the instruction's effect. -/
theorem exec_eq_effect (h : exec i s = .next t) (ht : t.fault = none) : faultCode i s = none ∧ t = effect i s := by
  refine (exec_eq_next h).resolve_left fun ⟨c, _, hr⟩ => ?_
  obtain ⟨hlatch, -, -⟩ := raise_eq_next hr
  simp [hlatch] at ht

/-- A piece that neither fault entry nor the row of the instruction writes is as before. -/
theorem exec_same (h : exec i s = .next t) (hp : mayWrite i p = false) (hne : p ∉ [.pc, .fault]) : p.same s t := by
  rcases exec_eq_next h with ⟨c, -, hr⟩ | ⟨-, rfl⟩
  · obtain ⟨-, -, hframe⟩ := raise_eq_next hr
    exact hframe p hne
  · exact effect_same i s hp

/-- Settles O57: without a fault the next state is the effect, which keeps what the row does not mark. -/
theorem instructionsWriteOnlyTheirRow : Obligations.InstructionsWriteOnlyTheirRow := by
  intro i s t _ h ht p hp
  obtain ⟨-, rfl⟩ := exec_eq_effect h ht
  exact effect_same i s hp

end Sys2Proof.Machine
end

section
/-! O52, O53, O54. The invariant of 10_state.md R36, piece by piece under an effect and then under every operation; and that
a state that satisfies it has a next state. -/

namespace Sys2Proof.Machine

variable {i : Instr} {s t : State} {r : Byte} {rest : List HostOp}

/-- The invariant speaks of memory, the stack and `pc` alone. -/
theorem Legal.update (h : Legal s) (hcfg : t.cfg = s.cfg) (hmem : t.mem = s.mem) (hstack : t.stack = s.stack)
    (hsp : t.sp = s.sp) (hpc : t.pc.toNat ≤ 0x10FE) : Legal t where
  mem_wf := by rw [hcfg, hmem]; exact h.mem_wf
  sp_le := by rw [hsp]; exact h.sp_le
  pc_le := hpc
  frames_le k w hw := h.frames_le k w (by rwa [State.frame_congr hstack] at hw)

/-! ### Under the effect of an instruction, with `pc` past its word -/

theorem State.skipIf_mem (s : State) (c : Bool) : (s.skipIf c).mem = s.mem := by cases c <;> rfl

theorem State.awaitKey_mem (s : State) (x : Nibble) : (s.awaitKey x).mem = s.mem := by
  unfold State.awaitKey; split <;> rfl

theorem effect_mem (s : State) (hw : mayWrite i .mem = false) : (effect i s).mem = s.mem := by
  cases i
  case ldBVx | ldMemVx => cases hw
  all_goals simp only [effect]
  case seByte | sneByte | seReg | sneReg | skp | sknp => exact s.skipIf_mem _
  case ldVxK x => exact s.awaitKey_mem x
  case drw x y n => exact (s.draw_same_data x y n).2.1
  all_goals rfl

theorem effect_mem_wf (h : Legal s) (hf : faultCode i s = none) : Memory.wf (effect i s).cfg (effect i s).mem := by
  have hcfg : (effect i s).cfg = s.cfg := effect_same (p := .cfg) i s (by cases i <;> rfl)
  cases hw : mayWrite i .mem with
  | false => rw [hcfg, effect_mem s hw]; exact h.mem_wf
  | true =>
    cases i
    case ldBVx x =>
      have hrange : s.I.toNat + 2 ≤ 0xFFF := by simpa [faultCode] using hf
      exact State.setBytes_wf h.mem_wf (show s.I.toNat + 0 + 3 ≤ 4096 by omega)
    case ldMemVx x =>
      have hrange : s.I.toNat + x.val ≤ 0xFFF := by simpa [faultCode] using hf
      exact State.setBytes_wf h.mem_wf (by simp only [State.length_regsUpTo, State.effectiveAddress, memSize]; omega)
    all_goals cases hw

theorem effect_sp_le (h : Legal s) (hf : faultCode i s = none) : (effect i s).sp.toNat ≤ 16 := by
  have hsp := h.sp_le
  cases hw : mayWrite i .sp with
  | false => rw [effect_same (p := .sp) i s hw]; exact hsp
  | true =>
    cases i
    case ret =>
      have h0 : s.sp ≠ 0 := by simpa [faultCode] using hf
      have hpos : 1 ≤ s.sp.toNat := Nat.pos_of_ne_zero fun hc => h0 (BitVec.eq_of_toNat_eq hc)
      have := State.popFrame_sp_toNat hpos
      exact show s.popFrame.sp.toNat ≤ 16 by omega
    case call nnn =>
      have h16 : s.sp ≠ 16 := by simpa [faultCode] using hf
      have hlt : s.sp.toNat < 16 := lt_of_le_of_ne hsp fun hc => h16 (BitVec.eq_of_toNat_eq hc)
      exact (State.pushFrame_sp_toNat s.pc hlt).trans_le hlt
    all_goals cases hw

theorem effect_frames_le (h : Legal s) (hf : faultCode i s = none) (hpc : s.pc.toNat ≤ 0x1000) {k : Nat} {w : Word}
    (hw : (effect i s).frame k = some w) : w.toNat ≤ 0x1000 := by
  cases hm : mayWrite i .stack with
  | false => exact h.frames_le k w (by rwa [State.frame_congr (effect_same (p := .stack) i s hm)] at hw)
  | true =>
    cases i
    case call nnn =>
      have h16 : s.sp ≠ 16 := by simpa [faultCode] using hf
      have hlt : s.sp.toNat < 16 := lt_of_le_of_ne h.sp_le fun hc => h16 (BitVec.eq_of_toNat_eq hc)
      rw [effect, State.setPc_frame, State.frame_pushFrame s s.pc hlt] at hw
      split_ifs at hw
      · cases hw; exact hpc
      · exact h.frames_le k w hw
    all_goals cases hm

/-- `pc` moved on by one word. -/
theorem toNat_add_two {w : Word} (h : w.toNat ≤ 0x1000) : (w + 2).toNat = w.toNat + 2 :=
  BitVec.toNat_add_of_lt (show w.toNat + 2 < 2 ^ 16 by omega)

/-- `pc` back over the word that was fetched. -/
theorem toNat_sub_two {w : Word} (h : 2 ≤ w.toNat) : (w - 2).toNat = w.toNat - 2 :=
  BitVec.toNat_sub_of_le (by simpa [BitVec.le_def] using h)

theorem State.skipIf_pc_le {c : Bool} (hpc : s.pc.toNat ≤ 0x1000) : (s.skipIf c).pc.toNat ≤ 0x10FE := by
  rw [State.skipIf_pc]
  split_ifs
  · rw [toNat_add_two hpc]; omega
  · omega

theorem effect_pc_le (h : Legal s) (hlo : 2 ≤ s.pc.toNat) (hpc : s.pc.toNat ≤ 0x1000) :
    (effect i s).pc.toNat ≤ 0x10FE := by
  cases hw : mayWrite i .pc with
  | false => rw [effect_same (p := .pc) i s hw]; exact h.pc_le
  | true =>
    cases i
    case ret =>
      rw [effect, State.setPc_pc]
      cases hra : s.frame s.sp.toNat with
      | none => exact Nat.zero_le _
      | some ra => exact (h.frames_le _ ra hra).trans (by decide)
    case jp nnn | call nnn =>
      rw [effect, State.setPc_pc, toNat_addrToWord]
      have := nnn.isLt; omega
    case jpV0 nnn =>
      rw [effect, State.setPc_pc, toNat_addrToWord_add_byteToWord]
      have := nnn.isLt; have := (s.reg 0).isLt; omega
    case ldVxK x =>
      rw [effect, State.awaitKey]
      split
      · exact h.pc_le
      · rw [State.setPc_pc, toNat_sub_two hlo]; omega
    case seByte | sneByte | seReg | sneReg | skp | sknp => exact State.skipIf_pc_le hpc
    all_goals cases hw

theorem effect_Legal (h : Legal s) (hf : faultCode i s = none) (hlo : 2 ≤ s.pc.toNat) (hpc : s.pc.toNat ≤ 0x1000) :
    Legal (effect i s) where
  mem_wf := effect_mem_wf h hf
  sp_le := effect_sp_le h hf
  pc_le := effect_pc_le h hlo hpc
  frames_le _ _ hw := effect_frames_le h hf hpc hw

theorem raise_Legal {c : FaultCause} (h : Legal s) (hlo : 2 ≤ s.pc.toNat) (hr : raise c i s = .next t) : Legal t := by
  cases hr
  have hpc := h.pc_le
  exact h.update rfl rfl rfl rfl (by rw [toNat_sub_two hlo]; omega)

theorem exec_Legal (h : Legal s) (hlo : 2 ≤ s.pc.toNat) (hpc : s.pc.toNat ≤ 0x1000) (he : exec i s = .next t) :
    Legal t := by
  rcases exec_eq_next he with ⟨c, -, hr⟩ | ⟨hf, rfl⟩
  · exact raise_Legal h hlo hr
  · exact effect_Legal h hf hlo hpc

/-! ### Under the operations of the host -/

theorem tick_Legal (h : Legal s) (ht : tick r s = .next t) : Legal t := by
  rcases tick_cases ht with ⟨-, rfl⟩ | ⟨-, -, rfl⟩ | ⟨-, hpc, -, rfl⟩ | ⟨-, hpc, i, u, -, hu, rfl⟩
  · exact h.update rfl rfl rfl rfl h.pc_le
  · exact h.update rfl rfl rfl rfl h.pc_le
  · exact h.update rfl rfl rfl rfl (by rw [State.unknownTick_pc, toNat_add_two (by omega)]; omega)
  · have hpost : (s.beginTick r).pc.toNat = s.pc.toNat + 2 := toNat_add_two (by omega)
    have hbegin : Legal (s.beginTick r) := h.update rfl rfl rfl rfl (by omega)
    have hLu : Legal u := exec_Legal hbegin (by omega) (by omega) hu
    exact hLu.update rfl rfl rfl rfl hLu.pc_le

theorem loadRom_Legal (h : Legal s) (image : List Byte) : Legal (s.loadRom image) := by
  unfold State.loadRom
  split_ifs with hlen
  · exact h.update rfl rfl rfl rfl h.pc_le
  · exact { mem_wf := State.setBytes_wf h.mem_wf (by simp only [maxRomLen, progBase, memSize] at *; omega),
            sp_le := h.sp_le, pc_le := h.pc_le, frames_le := h.frames_le }

/-- Every frame is 0 at reset. -/
theorem reset_frame {k : Nat} (h1 : 1 ≤ k) (h16 : k ≤ 16) : State.reset.frame k = some 0 := by
  have hk : k - 1 < 16 := by omega
  rw [State.frame, if_neg (by omega), Vector.getElem?_eq_getElem hk]
  exact congrArg some (Vector.getElem_replicate hk)

theorem resetAll_Legal (s : State) : Legal s.resetAll where
  mem_wf := ⟨List.Pairwise.nil, fun _ hp => absurd hp List.not_mem_nil⟩
  sp_le := Nat.zero_le _
  pc_le := by rw [State.resetAll_pc]; decide
  frames_le k w hw := by
    have hw' : State.reset.frame k = some w := hw
    by_cases hk : 1 ≤ k ∧ k ≤ 16
    · rw [reset_frame hk.1 hk.2] at hw'
      cases hw'; decide
    · rw [State.frame_eq_none _ (by omega)] at hw'
      cases hw'

theorem perform_Legal {op : HostOp} (h : Legal s) (ht : perform op s = .next t) : Legal t := by
  cases op with
  | reset => cases ht; exact resetAll_Legal s
  | loadRom image => cases ht; exact loadRom_Legal h image
  | setKeyState k level => cases ht; exact h.update rfl rfl rfl rfl h.pc_le
  | tick b => exact tick_Legal h ht
  | tickTimers => cases ht; exact h.update rfl rfl rfl rfl h.pc_le

/-- The state with the operation at the head of its schedule taken off. -/
def State.popOp (s : State) (rest : List HostOp) : State := { s with schedule := rest }

theorem State.popOp_Frame (s : State) (rest : List HostOp) : Frame s (s.popOp rest) [.schedule] := by
  intro p hp
  cases p with
  | schedule => simp at hp
  | mem => exact fun _ => rfl
  | _ => rfl

theorem step_of_cons {op : HostOp} (h : s.schedule = op :: rest) : step s = perform op (s.popOp rest) := by
  simp only [step, h, State.popOp]

/-- A step is an operation of the host, or a tick, in the state with the operation taken off the schedule. -/
theorem step_eq (s : State) :
    (∃ op rest, s.schedule = op :: rest ∧ step s = perform op (s.popOp rest)) ∨
    (s.schedule = [] ∧ step s = tick (Config.randomByte s.draws) { s with draws := s.draws + 1 }) := by
  cases hs : s.schedule with
  | nil => exact .inr ⟨rfl, by simp only [step, hs]⟩
  | cons op rest => exact .inl ⟨op, rest, rfl, step_of_cons hs⟩

/-- Settles O52: fault entry, the effect of every instruction and every other operation keep the invariant. -/
theorem invariantIsKeptByEveryStep : Obligations.InvariantIsKeptByEveryStep := by
  intro s t h ht
  rcases step_eq s with ⟨op, rest, -, he⟩ | ⟨-, he⟩ <;> rw [he] at ht
  · refine perform_Legal ?_ ht
    exact h.update rfl rfl rfl rfl h.pc_le
  · refine tick_Legal ?_ ht
    exact h.update rfl rfl rfl rfl h.pc_le

/-- Settles O53: the reset state is what `reset` leaves of it. -/
theorem invariantHoldsAtReset : Obligations.InvariantHoldsAtReset := resetAll_Legal State.reset

/-! ### A next state in every legal state -/

theorem exec_answers_of_Legal (h : Legal s) (i : Instr) : ∃ t, exec i s = .next t := by
  rcases exec_answers i s with ⟨c, -, he⟩ | ⟨-, -, hsp, -⟩ | ⟨-, he⟩
  · exact ⟨_, he⟩
  · exact absurd h.sp_le (Nat.not_le.2 hsp)
  · exact ⟨_, he⟩

theorem tick_answers_of_Legal (h : Legal s) (r : Byte) : ∃ t, tick r s = .next t := by
  by_cases hf : s.fault = none
  · rcases Nat.lt_or_ge 0xFFE s.pc.toNat with hpc | hpc
    · exact ⟨_, tick_fetchFault hf hpc⟩
    · cases hd : decodeWord (s.wordAt s.pc.toNat) with
      | error e => exact ⟨_, tick_unknown hf hpc hd⟩
      | ok i =>
        have hbegin : Legal (s.beginTick r) :=
          h.update rfl rfl rfl rfl (by rw [State.beginTick_pc, toNat_add_two (by omega)]; omega)
        obtain ⟨u, hu⟩ := exec_answers_of_Legal hbegin i
        exact ⟨u.endTick, by rw [tick_decoded hf hpc hd, hu, finishTick]⟩
  · exact ⟨_, tick_faulted hf⟩

theorem perform_answers_of_Legal (h : Legal s) (op : HostOp) : ∃ t, perform op s = .next t := by
  cases op with
  | tick b => exact tick_answers_of_Legal h b
  | _ => exact ⟨_, rfl⟩

/-- Settles O54: only a stack pointer above 16 could stop a step. -/
theorem invariantStatesNeverStop : Obligations.InvariantStatesNeverStop := by
  intro s h
  rcases step_eq s with ⟨op, rest, -, he⟩ | ⟨-, he⟩ <;> rw [he]
  · refine perform_answers_of_Legal ?_ op
    exact h.update rfl rfl rfl rfl h.pc_le
  · refine tick_answers_of_Legal ?_ _
    exact h.update rfl rfl rfl rfl h.pc_le

end Sys2Proof.Machine
end

section
/-! O58. Two states that agree on what an instruction's row reads and writes (10_state.md R37): the same answer, piece by
piece. -/

namespace Sys2Proof.Machine

variable {i : Instr} {s s' t : State} {p : Piece}

theorem Piece.same_symm (h : p.same s t) : p.same t s := by
  cases p with
  | mem => exact fun a => (h a).symm
  | _ => exact Eq.symm h

/-- The two states agree on every piece the row of the instruction marks as read or written. -/
def AgreeOnRow (i : Instr) (s s' : State) : Prop := ∀ p, mayRead i p = true ∨ mayWrite i p = true → p.same s s'

theorem AgreeOnRow.read (h : AgreeOnRow i s s') (p : Piece) (hp : mayRead i p = true) : p.same s s' := h p (.inl hp)

theorem AgreeOnRow.reg (h : AgreeOnRow i s s') (r : Nibble) (hr : mayRead i (.reg r) = true) : s'.reg r = s.reg r :=
  h (.reg r) (.inl hr)

theorem AgreeOnRow.written (h : AgreeOnRow i s s') (p : Piece) (hp : mayWrite i p = true) : p.same s s' := h p (.inr hp)

/-! ### The same answer -/

/-- The conditions of the fault table are on pieces the row reads. -/
theorem faultCode_congr (h : AgreeOnRow i s s') : faultCode i s' = faultCode i s := by
  cases i
  case call nnn =>
    have hsp : s'.sp = s.sp := h.read .sp rfl
    simp only [faultCode, hsp]
  case ret =>
    have hsp : s'.sp = s.sp := h.read .sp rfl
    simp only [faultCode, hsp]
  case ldBVx x =>
    have hI : s'.I = s.I := h.read .I (by simp [mayRead])
    simp only [faultCode, hI]
  case ldMemVx x | ldVxMem x | drw x y n =>
    have hI : s'.I = s.I := h.read .I (by simp [mayRead])
    simp only [faultCode, hI]
  case skp x | sknp x | ldFVx x =>
    have hx : s'.reg x = s.reg x := h.read (.reg x) (by simp [mayRead])
    simp only [faultCode, hx]
  all_goals rfl

theorem faultCause_code_injective {c c' : FaultCause} (h : c.code = c'.code) : c = c' := by
  cases c <;> cases c' <;> simp_all [FaultCause.code]

/-- The table names the fault that is raised. -/
theorem exec_of_faultCode {c : FaultCause} (hf : faultCode i s = some c.code) : exec i s = raise c i s := by
  rcases exec_answers i s with ⟨c', hf', he⟩ | ⟨hf', -⟩ | ⟨hf', -⟩
  · rw [faultCause_code_injective (Option.some.inj (hf.symm.trans hf'))]; exact he
  · rw [hf] at hf'; cases hf'
  · rw [hf] at hf'; cases hf'

theorem exec_of_no_frame (hu : usesFrame i = true) (hsp : 16 < s.sp.toNat) : exec i s = .fault (.noSuchFrame s.sp) := by
  cases i
  case ret => exact exec_ret_of_no_frame hsp
  case call nnn => exact exec_call_of_no_frame nnn hsp
  all_goals cases hu

/-- Nor does a stop for want of a frame depend on anything else. -/
theorem sp_same_of_usesFrame (h : AgreeOnRow i s s') (hu : usesFrame i = true) : s'.sp = s.sp := by
  cases i
  case ret | call => exact h.read .sp rfl
  all_goals cases hu

/-! ### The same effect -/

/-- A register is written with one value in both. -/
theorem setReg_same {x : Nibble} {b b' : Byte} (hb : b' = b) :
    Piece.same (s.setReg x b) (s'.setReg x b') (.reg x) := by
  simp only [Piece.same, State.reg_setReg_same, hb]

/-- Result and flag are the same in both. -/
theorem setResultFlag_same {x r : Nibble} {b b' : Byte} {f f' : Bool} (hr : r = x ∨ r = VF) (hb : b' = b) (hf : f' = f) :
    Piece.same (s.setResultFlag x b f) (s'.setResultFlag x b' f') (.reg r) := by
  subst hb hf
  by_cases hrF : r = VF
  · subst hrF; simp only [Piece.same, State.reg_setResultFlag_flag]
  · obtain rfl := hr.resolve_right hrF
    simp only [Piece.same, State.reg_setResultFlag_result hrF]

theorem skipIf_same {c c' : Bool} (hpc : s'.pc = s.pc) (hc : c' = c) : Piece.same (s.skipIf c) (s'.skipIf c') .pc := by
  simp only [Piece.same, State.skipIf_pc, hpc, hc]

theorem awaitKey_same (x : Nibble) (hreg : s'.reg x = s.reg x) (hpc : s'.pc = s.pc) (hrel : s'.released = s.released)
    (hp : p = .reg x ∨ p = .pc) : p.same (s.awaitKey x) (s'.awaitKey x) := by
  simp only [State.awaitKey, hrel]
  rcases hp with rfl | rfl <;> split <;> simp [Piece.same, hreg, hpc]

theorem setBytes_same {a : Nat} {bs : List Byte} (hmem : ∀ b, s'.byteAt b = s.byteAt b) :
    Piece.same (s.setBytes a bs) (s'.setBytes a bs) .mem := fun b => by
  simp only [State.setBytes_byteAt, hmem]

theorem regsUpTo_congr {x : Nibble} (h : ∀ r ≤ x, s'.reg r = s.reg r) : s'.regsUpTo x = s.regsUpTo x := by
  refine List.ext_getElem (by rw [State.length_regsUpTo, State.length_regsUpTo]) fun k hk hk' => ?_
  rw [State.length_regsUpTo] at hk
  have hx := x.isLt
  exact (s'.getElem_regsUpTo x ⟨k, by omega⟩ _).trans
    ((h ⟨k, by omega⟩ (Nat.le_of_lt_succ hk)).trans (s.getElem_regsUpTo x ⟨k, by omega⟩ _).symm)

/-- Every piece the row marks as written is the same after both. -/
theorem effect_congr (h : AgreeOnRow i s s') (hp : mayWrite i p = true) : p.same (effect i s) (effect i s') := by
  cases i
  case cls =>
    obtain rfl : p = .pixels := by simpa [mayWrite] using hp
    exact rfl
  case ret =>
    have hsp : s'.sp = s.sp := h.read .sp rfl
    have hframe := State.frame_congr (h.read .stack rfl) s.sp.toNat
    obtain rfl | rfl : p = .pc ∨ p = .sp := by simpa [mayWrite] using hp
    · simp only [effect, Piece.same, State.setPc_pc, hsp, hframe]
    · simp only [effect, Piece.same, State.setPc_sp, State.popFrame_sp, hsp]
  case jp =>
    obtain rfl : p = .pc := by simpa [mayWrite] using hp
    exact rfl
  case call =>
    have hpc : s'.pc = s.pc := h.read .pc rfl
    have hsp : s'.sp = s.sp := h.read .sp rfl
    have hstack : s'.stack = s.stack := h.written .stack rfl
    obtain (rfl | rfl) | rfl : (p = .pc ∨ p = .stack) ∨ p = .sp := by simpa [mayWrite] using hp
    · exact rfl
    · simp only [effect, Piece.same, State.setPc_stack, State.pushFrame_stack, hpc, hsp, hstack]
    · simp only [effect, Piece.same, State.setPc_sp, State.pushFrame_sp, hsp]
  case jpV0 =>
    have h0 := h.reg 0 rfl
    obtain rfl : p = .pc := by simpa [mayWrite] using hp
    simp only [effect, Piece.same, State.setPc_pc, h0]
  case seByte x _ | sneByte x _ =>
    have hx := h.reg x (by simp [mayRead])
    obtain rfl : p = .pc := by simpa [mayWrite] using hp
    exact skipIf_same (h.written .pc rfl) (by rw [hx])
  case seReg x y | sneReg x y =>
    have hx := h.reg x (by simp [mayRead])
    have hy := h.reg y (by simp [mayRead])
    obtain rfl : p = .pc := by simpa [mayWrite] using hp
    exact skipIf_same (h.written .pc rfl) (by rw [hx, hy])
  case skp x | sknp x =>
    have hx := h.reg x (by simp [mayRead])
    have hkey : s'.key = s.key := h.read .key (by simp [mayRead])
    obtain rfl : p = .pc := by simpa [mayWrite] using hp
    exact skipIf_same (h.written .pc rfl) (by simp only [State.keyLevel, hkey, hx])
  case ldByte =>
    obtain rfl : p = .reg _ := by simpa [mayWrite] using hp
    exact setReg_same rfl
  case addByte x _ =>
    obtain rfl : p = .reg x := by simpa [mayWrite] using hp
    exact setReg_same (by rw [h.reg x (by simp [mayRead])])
  case ldReg x y =>
    obtain rfl : p = .reg x := by simpa [mayWrite] using hp
    exact setReg_same (h.reg y (by simp [mayRead]))
  case orReg x y | andReg x y | xorReg x y =>
    obtain rfl : p = .reg x := by simpa [mayWrite] using hp
    exact setReg_same (by rw [h.reg x (by simp [mayRead]), h.reg y (by simp [mayRead])])
  case addReg x y | subReg x y | subnReg x y =>
    have hx := h.reg x (by simp [mayRead])
    have hy := h.reg y (by simp [mayRead])
    obtain rfl | rfl : p = .reg x ∨ p = .reg VF := by simpa [mayWrite] using hp
    · exact setResultFlag_same (.inl rfl) (by rw [hx, hy]) (by rw [hx, hy])
    · exact setResultFlag_same (.inr rfl) (by rw [hx, hy]) (by rw [hx, hy])
  case shr x y | shl x y =>
    have hx := h.reg x (by simp [mayRead])
    obtain rfl | rfl : p = .reg x ∨ p = .reg VF := by simpa [mayWrite] using hp
    · exact setResultFlag_same (.inl rfl) (by rw [hx]) (by rw [hx])
    · exact setResultFlag_same (.inr rfl) (by rw [hx]) (by rw [hx])
  case ldI =>
    obtain rfl : p = .I := by simpa [mayWrite] using hp
    exact rfl
  case rnd x _ =>
    have hrnd : s'.rnd = s.rnd := h.read .rnd rfl
    obtain rfl : p = .reg x := by simpa [mayWrite] using hp
    exact setReg_same (by rw [hrnd])
  case drw x y n =>
    have hmem : ∀ a, s'.byteAt a = s.byteAt a := h.read .mem (by simp [mayRead])
    have hI : s'.I = s.I := h.read .I (by simp [mayRead])
    have hpix : s'.pixels = s.pixels := h.read .pixels (by simp [mayRead])
    have hmask := State.drawMask_congr n (h.reg x (by simp [mayRead])) (h.reg y (by simp [mayRead])) hI hmem
    obtain rfl | rfl : p = .pixels ∨ p = .reg VF := by simpa [mayWrite] using hp
    · simp only [effect, Piece.same, State.draw_eq, State.setReg_pixels, State.setPixels_pixels, hpix, hmask]
    · simp only [effect, Piece.same, State.reg_VF_draw, hpix, hmask]
  case ldVxDT x =>
    obtain rfl : p = .reg x := by simpa [mayWrite] using hp
    exact setReg_same (h.read .DT rfl)
  case ldVxK x =>
    exact awaitKey_same x (h.written (.reg x) (by simp [mayWrite])) (h.written .pc (by simp [mayWrite]))
      (h.read .released rfl) (by simpa [mayWrite] using hp)
  case ldDTVx x =>
    obtain rfl : p = .DT := by simpa [mayWrite] using hp
    exact h.reg x (by simp [mayRead])
  case ldSTVx x =>
    obtain rfl : p = .ST := by simpa [mayWrite] using hp
    exact h.reg x (by simp [mayRead])
  case addIVx x =>
    have hI : s'.I = s.I := h.read .I (by simp [mayRead])
    obtain rfl : p = .I := by simpa [mayWrite] using hp
    simp only [effect, Piece.same, State.setI_I, hI, h.reg x (by simp [mayRead])]
  case ldFVx x =>
    have hcfg : s'.cfg = s.cfg := h.read .cfg (by simp [mayRead])
    obtain rfl : p = .I := by simpa [mayWrite] using hp
    simp only [effect, Piece.same, State.setI_I, hcfg, h.reg x (by simp [mayRead])]
  case ldBVx x =>
    have hI : s'.I = s.I := h.read .I (by simp [mayRead])
    obtain rfl : p = .mem := by simpa [mayWrite] using hp
    simp only [effect, State.effectiveAddress, hI, h.reg x (by simp [mayRead])]
    exact setBytes_same (h.written .mem rfl)
  case ldMemVx x =>
    have hI : s'.I = s.I := h.read .I (by simp [mayRead])
    have hregs := regsUpTo_congr (x := x) fun r hr => h.reg r (by simpa [mayRead] using hr)
    obtain rfl : p = .mem := by simpa [mayWrite] using hp
    simp only [effect, State.effectiveAddress, hI, hregs]
    exact setBytes_same (h.written .mem rfl)
  case ldVxMem x =>
    have hI : s'.I = s.I := h.read .I (by simp [mayRead])
    have hmem : ∀ a, s'.byteAt a = s.byteAt a := h.read .mem (by simp [mayRead])
    cases p with
    | reg r =>
      have hr : r ≤ x := by simpa [mayWrite] using hp
      simp only [effect, Piece.same, State.reg_setRegs_fromMemory, State.effectiveAddress, if_pos hr, hmem, hI]
    | _ => cases hp

/-- `pc` comes out the same, whether the row marks it or not. -/
theorem effect_pc_congr (h : AgreeOnRow i s s') (hpc : s'.pc = s.pc) : (effect i s').pc = (effect i s).pc := by
  cases hw : mayWrite i .pc with
  | true => exact effect_congr h hw
  | false =>
    have hs : (effect i s).pc = s.pc := effect_same (p := .pc) i s hw
    have hs' : (effect i s').pc = s'.pc := effect_same (p := .pc) i s' hw
    rw [hs, hs', hpc]

/-- Fault entry in both: the latch and `pc` name one `pc0`, and nothing else has moved. -/
theorem raise_congr {c : FaultCause} (h : AgreeOnRow i s s') (hpc : s.pc = s'.pc) (hr : raise c i s = .next t) :
    ∃ t', raise c i s' = .next t' ∧ t'.fault = t.fault ∧ t'.pc = t.pc ∧ ∀ p, mayWrite i p = true → p.same t t' := by
  obtain ⟨hlatch, hpc0, hframe⟩ := raise_eq_next hr
  obtain ⟨t', ht', hlatch', hpc0', hframe'⟩ := exists_raise c i s'
  have hpct : t'.pc = t.pc := by rw [hpc0, hpc0', hpc]
  refine ⟨t', ht', by rw [hlatch, hlatch', hpc], hpct, fun p hp => ?_⟩
  by_cases hpcp : p = .pc
  · subst hpcp; exact hpct
  · have hne : p ∉ [.pc, .fault] := by
      have hfault := mayWrite_fault i
      intro hmem
      obtain rfl | rfl : p = .pc ∨ p = .fault := by simpa using hmem
      · exact hpcp rfl
      · rw [hp] at hfault; cases hfault
    exact Piece.same_trans (Piece.same_symm (hframe p hne)) (Piece.same_trans (h.written p hp) (hframe' p hne))

/-- An instruction that has its effect in one state has it in the other. -/
theorem exec_effect_congr (h : AgreeOnRow i s s') (hf : faultCode i s = none) (ht : exec i s = .next t) :
    exec i s' = .next (effect i s') := by
  have hf' : faultCode i s' = none := (faultCode_congr h).trans hf
  rcases exec_answers i s' with ⟨c, hc, -⟩ | ⟨-, hu, hsp, -⟩ | ⟨-, he⟩
  · rw [hf'] at hc; cases hc
  · rw [exec_of_no_frame hu (sp_same_of_usesFrame h hu ▸ hsp)] at ht; cases ht
  · exact he

/-- Settles O58: the table of faults, the stop and the effect all depend on the row alone. -/
theorem outcomeDependsOnlyOnReadRow : Obligations.OutcomeDependsOnlyOnReadRow := by
  intro i s s' t hs hs' hpc h ht
  have hrow : AgreeOnRow i s s' := h
  rcases exec_eq_next ht with ⟨c, hf, hr⟩ | ⟨hf, rfl⟩
  · rw [exec_of_faultCode ((faultCode_congr hrow).trans hf)]
    exact raise_congr hrow hpc hr
  · refine ⟨effect i s', exec_effect_congr hrow hf ht, ?_, effect_pc_congr hrow hpc.symm, fun p => effect_congr hrow⟩
    rw [effect_fault, effect_fault, hs, hs']

end Sys2Proof.Machine
end

section
/-! O36, O37, O38, O39, O40. The ways a step of a tick goes (40_cycle_and_host_operations.md R91 to R94, R101;
60_exceptions.md R171). -/

namespace Sys2Proof.Machine

variable {s s' t : State} {r : Byte}

/-! ### The frames of the parts of a tick -/

theorem State.beginTick_Frame (s : State) (r : Byte) : Frame s (s.beginTick r) [.pc, .rnd, .diag] := by
  intro p hp; cases p <;> simp [Piece.same] at hp ⊢

theorem State.endTick_Frame (s : State) : Frame s s.endTick [.rnd, .released] := by
  intro p hp; cases p <;> simp [Piece.same] at hp ⊢

theorem State.fetchFault_Frame (s : State) : Frame s s.fetchFault [.fault, .diag] := by
  intro p hp; cases p <;> simp [Piece.same] at hp ⊢

theorem State.unknownTick_Frame (s : State) (r : Byte) (w : Word) :
    Frame s (s.unknownTick r w) [.pc, .diag, .released, .rnd] := by
  intro p hp; cases p <;> simp [Piece.same] at hp ⊢

theorem State.diagNone_Frame (s : State) : Frame s { s with diag := none } [.diag] := by
  intro p hp
  cases p with
  | diag => simp at hp
  | mem => exact fun _ => rfl
  | _ => rfl

/-! ### The step of a tick -/

theorem TickNext.step_decoded {i : Instr} (h : TickNext s s' r) (hf : s.fault = none) (hpc : s.pc.toNat ≤ 0xFFE)
    (hi : decodeWord (s.wordAt s.pc.toNat) = .ok i) : step s = finishTick (exec i (s'.beginTick r)) := by
  rw [← h.wordAt, ← h.pc] at hi
  rw [step_of_TickNext h, tick_decoded (h.fault.trans hf) (h.pc ▸ hpc) hi]

/-- Two bytes decode as the word they are. -/
theorem decodeWord_of_decode {hi lo : Byte} {i : Instr} (h : decode [hi, lo] = .ok (i, [])) :
    decodeWord (wordOfBytes hi lo) = .ok i := by
  cases hw : decodeWord (wordOfBytes hi lo) with
  | error e => simp [decode, hw, Except.map] at h
  | ok j => simpa [decode, hw, Except.map] using h

/-- Settles O36: the state the instruction runs in is that of the begun tick, and the drain ends the tick. -/
theorem stepRunsDecodedInstruction : Obligations.StepRunsDecodedInstruction := by
  intro s s' r i h hf hpc hi
  have hbegin : { s' with pc := s.pc + 2, rnd := r, diag := none } = s'.beginTick r := by rw [← h.pc]; rfl
  have hstep := h.step_decoded hf hpc (decodeWord_of_decode hi)
  rw [hbegin]
  refine ⟨hstep, fun t ht => ?_⟩
  rw [hstep, ht]
  rfl

/-- Settles O38: an unknown word takes the decoder's error branch. -/
theorem unknownWordIsDiagnosedNoOp : Obligations.UnknownWordIsDiagnosedNoOp := by
  intro s s' r h hf hpc hw
  have hf' : s'.fault = none := h.fault.trans hf
  rw [← h.wordAt, ← h.pc] at hw
  refine ⟨_, (step_of_TickNext h).trans (tick_unknown hf' (h.pc ▸ hpc) hw), ?_, ?_, ?_, rfl, s'.unknownTick_Frame r _⟩
  · rw [State.unknownTick_pc, h.pc]
  · rw [State.unknownTick_diag, h.pc, h.wordAt]
  · rw [State.unknownTick_released, hf']; rfl

/-- Settles O39: no word is fetched, and the latch is written. -/
theorem fetchOutOfRangeFaults : Obligations.FetchOutOfRangeFaults := by
  intro s s' r h hf hpc
  refine ⟨s'.fetchFault, (step_of_TickNext h).trans (tick_fetchFault (h.fault.trans hf) (h.pc ▸ hpc)), ?_, rfl,
    s'.fetchFault_Frame⟩
  rw [State.fetchFault_fault, h.pc]

/-- Settles O40: a latched fault is looked at before anything else. -/
theorem faultedMachineTicksIdle : Obligations.FaultedMachineTicksIdle := fun _ s' _ h hf =>
  ⟨{ s' with diag := none }, (step_of_TickNext h).trans (tick_faulted (h.fault ▸ hf)), rfl, s'.diagNone_Frame⟩

/-! ### A placed word -/

/-- What stands before the next tick in the schedule is dropped. -/
theorem dropWhile_not_isTick (l : List HostOp) : l.dropWhile (fun op => !op.isTick) = [] ∨
    ∃ r rest, l.dropWhile (fun op => !op.isTick) = .tick r :: rest := by
  induction l with
  | nil => exact .inl rfl
  | cons op l ih =>
    cases op with
    | tick r => exact .inr ⟨r, l, rfl⟩
    | _ => exact ih

/-- A state made ready to fetch has a tick next. -/
theorem exists_TickNext_withFetchWord (s : State) (n w : Nat) : ∃ s' r, TickNext (s.withFetchWord n w) s' r := by
  rcases dropWhile_not_isTick s.schedule with h | ⟨r, rest, h⟩
  · exact ⟨_, _, .inr ⟨h, rfl, rfl⟩⟩
  · exact ⟨_, r, .inl ⟨rest, h, rfl⟩⟩

theorem withFetchWord_pc_le (s : State) (n w : Nat) : (s.withFetchWord n w).pc.toNat ≤ 0xFFE := by
  show (if s.pc.toNat > 0xFFE then (0x0200 : Word) else s.pc).toNat ≤ 0xFFE
  split_ifs with h
  · decide
  · exact Nat.not_lt.1 h

/-- The word placed is the word at `pc`. -/
theorem withFetchWord_wordAt (s : State) (w : Word) :
    (s.withFetchWord 16 w.toNat).wordAt (s.withFetchWord 16 w.toNat).pc.toNat = w := by
  have hw : BitVec.ofNat 16 (w.toNat % 2 ^ 16) = w := by
    rw [Nat.mod_eq_of_lt w.isLt, BitVec.ofNat_toNat, BitVec.setWidth_eq]
  have hstored (k : Nat) (hk : k < (bytesOfWord w).length) :=
    s.readyToFetch.setBytes_byteAt_stored s.readyToFetch.pc.toNat hk
  rw [State.withFetchWord, hw, State.setBytes_pc, State.wordAt]
  exact (congrArg₂ wordOfBytes (hstored 0 Nat.two_pos) (hstored 1 Nat.one_lt_two)).trans (wordOfBytes_halves w)

/-- Settles O37: the placed word decodes to the instruction it encodes. -/
theorem placedWordIsRunNext : Obligations.PlacedWordIsRunNext := by
  intro s i
  obtain ⟨s', r, h⟩ := exists_TickNext_withFetchWord s 16 (encode i).toNat
  refine ⟨s', r, h, h.step_decoded rfl (withFetchWord_pc_le s 16 _) ?_⟩
  rw [withFetchWord_wordAt]
  exact decodeOfEncodeIsIdentity i

end Sys2Proof.Machine
end

section
/-! O41, O42, O43, O44, O56. What a tick does with the release record, the latch and every piece its instruction does not
write (40_cycle_and_host_operations.md R91, R94; 60_exceptions.md R173 to R177). -/

namespace Sys2Proof.Machine

variable {s s' t u : State} {r : Byte} {i : Instr} {p : Piece}

/-! ### The end of a tick -/

theorem State.endTick_released_of_fault (h : s.fault ≠ none) : s.endTick.released = s.released := by
  rw [State.endTick_released, if_pos (Option.isSome_iff_ne_none.2 h)]

theorem State.endTick_released_of_none (h : s.fault = none) : s.endTick.released = [] := by
  rw [State.endTick_released, h]; rfl

/-- No instruction writes the release record itself. -/
theorem exec_released (h : exec i s = .next u) : u.released = s.released :=
  exec_same (p := .released) h (by cases i <;> rfl) (by decide)

theorem tick_released (h : tick r s = .next t) : t.released = if t.fault = none then [] else s.released := by
  rcases tick_cases h with ⟨hf, rfl⟩ | ⟨-, -, rfl⟩ | ⟨hf, -, -, rfl⟩ | ⟨-, -, i, u, -, hu, rfl⟩
  · exact (if_neg hf).symm
  · rfl
  · rw [State.unknownTick_released, State.unknownTick_fault, hf]; rfl
  · rw [State.endTick_fault]
    have hrel : u.released = (s.beginTick r).released := exec_released hu
    split_ifs with huf
    · exact State.endTick_released_of_none huf
    · exact (State.endTick_released_of_fault huf).trans hrel

/-- Settles O41: the drain is the end of a tick with no fault latched. -/
theorem tickDrainsReleases : Obligations.TickDrainsReleases := by
  intro s s' t r h ht
  rw [step_of_TickNext h] at ht
  rw [tick_released ht, show s'.released = s.released from h.frame .released (by decide)]

/-! ### The latch -/

/-- A tick that latches a fault: of the fetch, or of the instruction, at the end of whose tick nothing is drained. -/
theorem tick_fault_cases {f : FaultRecord} (h : tick r s = .next t) (hf : s.fault = none) (ht : t.fault = some f) :
    (0xFFE < s.pc.toNat ∧ t = s.fetchFault) ∨
    (s.pc.toNat ≤ 0xFFE ∧ ∃ i c u, decodeWord (s.wordAt s.pc.toNat) = .ok i ∧ Raised c i (s.beginTick r) u ∧
      t = u.endTick) := by
  rcases tick_cases h with ⟨hf', -⟩ | ⟨-, hpc, rfl⟩ | ⟨-, -, -, rfl⟩ | ⟨-, hpc, i, u, hi, hu, rfl⟩
  · exact absurd hf hf'
  · exact .inl ⟨hpc, rfl⟩
  · rw [State.unknownTick_fault, hf] at ht; cases ht
  · rcases exec_cases hu with ⟨c, hc, -⟩ | ⟨-, hlatch, -⟩
    · exact .inr ⟨hpc, i, c, u, hi, hc, rfl⟩
    · rw [State.endTick_fault, hlatch, State.beginTick_fault, hf] at ht; cases ht

/-- The tick of an instruction that raises leaves all but the latch, the diagnostic and the random byte. -/
theorem Raised.tick_Frame {c : FaultCause} (h : Raised c i (s.beginTick r) u) :
    Frame s u.endTick [.fault, .diag, .rnd] := by
  obtain ⟨hlatch, hpc, hframe⟩ := h
  have hall : Frame s u.endTick [.pc, .fault, .diag, .rnd, .released] :=
    ((s.beginTick_Frame r).mono (by simp)).trans ((hframe.mono (by simp)).trans (u.endTick_Frame.mono (by simp)))
  intro p hp
  by_cases hppc : p = .pc
  · subst hppc
    exact hpc.trans (BitVec.add_sub_cancel s.pc 2)
  · by_cases hprel : p = .released
    · subst hprel
      have hfault : u.fault ≠ none := by rw [hlatch]; exact Option.some_ne_none _
      exact (State.endTick_released_of_fault hfault).trans (hframe .released (by decide))
    · exact hall p (by simp_all)

/-- Settles O42: the two ways to latch a fault, each with its own `pc0` and word. -/
theorem faultsArePrecise : Obligations.FaultsArePrecise := by
  intro s s' t r f h hf hstep ht
  rw [step_of_TickNext h] at hstep
  rw [← h.wordAt, ← h.pc]
  rcases tick_fault_cases hstep (h.fault.trans hf) ht with ⟨hpc, rfl⟩ | ⟨hpc, i, c, u, hi, hraised, rfl⟩
  · cases ht
    exact ⟨rfl, (if_pos hpc).symm, rfl, s'.fetchFault_Frame.mono (by simp)⟩
  · have ⟨hlatch, _, hframe⟩ := hraised
    rw [State.endTick_fault, hlatch] at ht
    cases ht
    refine ⟨BitVec.add_sub_cancel s'.pc 2, ?_, hframe .diag (by decide), hraised.tick_Frame⟩
    rw [if_neg (Nat.not_lt.2 hpc)]
    exact encodeOfDecodeIsIdentity _ i hi

/-! ### The table of faults -/

theorem tickFaultCode_of_out (h : 0xFFE < s.pc.toNat) : tickFaultCode s = some 3 := if_pos h

theorem tickFaultCode_of_ok (hpc : s.pc.toNat ≤ 0xFFE) (hi : decodeWord (s.wordAt s.pc.toNat) = .ok i) :
    tickFaultCode s = faultCode i s := by
  rw [tickFaultCode, if_neg (Nat.not_lt.2 hpc), hi]

theorem tickFaultCode_of_error {e : Reject} (hpc : s.pc.toNat ≤ 0xFFE)
    (hi : decodeWord (s.wordAt s.pc.toNat) = .error e) : tickFaultCode s = none := by
  rw [tickFaultCode, if_neg (Nat.not_lt.2 hpc), hi]

/-- An instruction's own condition is on `sp`, `I` and the registers. -/
theorem faultCode_eq (i : Instr) (hsp : t.sp = s.sp) (hI : t.I = s.I) (hreg : ∀ x, t.reg x = s.reg x) :
    faultCode i t = faultCode i s := by
  cases i <;> simp only [faultCode, hsp, hI, hreg]

theorem tick_faultCode (h : tick r s = .next t) (hf : s.fault = none) :
    t.fault.map (fun f => f.cause.code) = tickFaultCode s := by
  rcases tick_cases h with ⟨hf', -⟩ | ⟨-, hpc, rfl⟩ | ⟨-, hpc, hi, rfl⟩ | ⟨-, hpc, i, u, hi, hu, rfl⟩
  · exact absurd hf hf'
  · rw [tickFaultCode_of_out hpc]; rfl
  · rw [tickFaultCode_of_error hpc hi, State.unknownTick_fault, hf]; rfl
  · rw [tickFaultCode_of_ok hpc hi, State.endTick_fault,
      ← faultCode_eq (s := s) (t := s.beginTick r) i rfl rfl fun _ => rfl]
    rcases exec_cases hu with ⟨c, ⟨hlatch, -⟩, hcode⟩ | ⟨hcode, hlatch, -⟩
    · rw [hlatch, hcode]; rfl
    · rw [hlatch, hcode, State.beginTick_fault, hf]; rfl

/-- Settles O43: the table asks in the order of the tick. -/
theorem tickRaisesExactlyTheTable : Obligations.TickRaisesExactlyTheTable := by
  intro s s' t r h hf hstep
  rw [step_of_TickNext h] at hstep
  rw [tick_faultCode hstep (h.fault.trans hf)]
  simp only [tickFaultCode, h.wordAt, h.pc, faultCode_eq _ (h.frame .sp (by decide)) (h.frame .I (by decide))
    fun x => h.frame (.reg x) (by simp)]

/-- Settles O44: a tick of a faulted machine keeps the latch, and no other operation but `reset` writes it. -/
theorem onlyResetClearsFault : Obligations.OnlyResetClearsFault := by
  intro s f hf hreset
  have hne : s.fault ≠ none := by rw [hf]; exact Option.some_ne_none f
  rcases step_eq s with ⟨op, rest, hs, he⟩ | ⟨-, he⟩ <;> rw [he]
  · cases op with
    | reset => exact absurd hs (hreset rest)
    | tick b => exact ⟨_, tick_faulted hne, hf⟩
    | loadRom image =>
      refine ⟨_, rfl, ?_⟩
      rw [State.loadRom]; split_ifs <;> exact hf
    | setKeyState k level => exact ⟨_, rfl, hf⟩
    | tickTimers => exact ⟨_, rfl, hf⟩
  · exact ⟨_, tick_faulted hne, hf⟩

/-! ### What a tick leaves alone -/

/-- A piece that the tick itself does not write and the instruction at `pc` does not either. -/
theorem tick_same (h : tick r s = .next t) (hp : p ∉ [.pc, .released, .fault, .rnd, .diag])
    (hw : ∀ i, decodeWord (s.wordAt s.pc.toNat) = .ok i → mayWrite i p = false) : p.same s t := by
  rcases tick_cases h with ⟨-, rfl⟩ | ⟨-, -, rfl⟩ | ⟨-, -, -, rfl⟩ | ⟨-, -, i, u, hi, hu, rfl⟩
  · exact s.diagNone_Frame p (by simp_all)
  · exact s.fetchFault_Frame p (by simp_all)
  · exact s.unknownTick_Frame r _ p (by simp_all)
  · have hbegin : p.same s (s.beginTick r) := s.beginTick_Frame r p (by simp_all)
    have hexec : p.same (s.beginTick r) u := exec_same hu (hw i hi) (by simp_all)
    exact Piece.same_trans hbegin (Piece.same_trans hexec (u.endTick_Frame p (by simp_all)))

theorem TickNext.step_same (h : TickNext s s' r) (ht : step s = .next t)
    (hp : p ∉ [.pc, .released, .fault, .rnd, .diag, .schedule, .draws])
    (hw : ∀ i, decodeWord (s.wordAt s.pc.toNat) = .ok i → mayWrite i p = false) : p.same s t := by
  rw [step_of_TickNext h] at ht
  refine Piece.same_trans (h.frame p (by simp_all)) (tick_same ht (by simp_all) fun i hi => hw i ?_)
  rwa [h.wordAt, h.pc] at hi

theorem mayWrite_key (i : Instr) : mayWrite i .key = false := by cases i <;> rfl

theorem mayWrite_DT (h : mayWrite i .DT = true) : ∃ x, i = .ldDTVx x := by
  cases i
  case ldDTVx x => exact ⟨x, rfl⟩
  all_goals cases h

theorem mayWrite_ST (h : mayWrite i .ST = true) : ∃ x, i = .ldSTVx x := by
  cases i
  case ldSTVx x => exact ⟨x, rfl⟩
  all_goals cases h

theorem mayWrite_mem (h : mayWrite i .mem = true) : ∃ x, i = .ldBVx x ∨ i = .ldMemVx x := by
  cases i
  case ldBVx x => exact ⟨x, .inl rfl⟩
  case ldMemVx x => exact ⟨x, .inr rfl⟩
  all_goals cases h

theorem mayWrite_pixels (h : mayWrite i .pixels = true) : i = .cls ∨ ∃ x y n, i = .drw x y n := by
  cases i
  case cls => exact .inl rfl
  case drw x y n => exact .inr ⟨x, y, n, rfl⟩
  all_goals cases h

/-- Settles O56: for each piece, the instructions whose row marks it are those named. -/
theorem tickLeavesKeysAndDevices : Obligations.TickLeavesKeysAndDevices := by
  intro s s' t r h ht
  refine ⟨h.step_same (p := .key) ht (by decide) fun i _ => mayWrite_key i, fun hn => ?_, fun hn => ?_, fun hn => ?_,
    fun hcls hdrw => ?_⟩
  · refine h.step_same (p := .DT) ht (by decide) fun i hi => Bool.eq_false_iff.2 fun hw => ?_
    obtain ⟨x, rfl⟩ := mayWrite_DT hw
    exact hn x hi
  · refine h.step_same (p := .ST) ht (by decide) fun i hi => Bool.eq_false_iff.2 fun hw => ?_
    obtain ⟨x, rfl⟩ := mayWrite_ST hw
    exact hn x hi
  · refine h.step_same (p := .mem) ht (by decide) fun i hi => Bool.eq_false_iff.2 fun hw => ?_
    obtain ⟨x, rfl | rfl⟩ := mayWrite_mem hw
    · exact (hn x).1 hi
    · exact (hn x).2 hi
  · refine h.step_same (p := .pixels) ht (by decide) fun i hi => Bool.eq_false_iff.2 fun hw => ?_
    obtain rfl | ⟨x, y, n, rfl⟩ := mayWrite_pixels hw
    · exact hcls hi
    · exact hdrw x y n hi

end Sys2Proof.Machine
end

section
/-! O45, O46, O47, O48, O49, O51, O55. The operations of the host (40_cycle_and_host_operations.md R95 to R97;
70_reset_and_hazards.md R200), each taken off the schedule, one by one and in a row. -/

namespace Sys2Proof.Machine

variable {s s' t : State} {r : Byte} {rest : List HostOp}

/-- What one operation changes, and the schedule. -/
theorem Frame.of_popOp {ps : List Piece} (h : Frame (s.popOp rest) t ps) : Frame s t (ps ++ [.schedule]) :=
  ((s.popOp_Frame rest).mono (by simp)).trans (h.mono (by simp))

/-! ### `tick_timers` -/

theorem toNat_countDown (b : Byte) : (countDown b).toNat = b.toNat - 1 := by
  rw [countDown]
  split_ifs with h
  · rw [h]; rfl
  · have hpos : 1 ≤ b.toNat := Nat.pos_of_ne_zero fun hc => h (BitVec.eq_of_toNat_eq hc)
    exact BitVec.toNat_sub_of_le (by simpa [BitVec.le_def] using hpos)

theorem State.tickTimers_Frame (s : State) : Frame s s.tickTimers [.DT, .ST] := by
  intro p hp; cases p <;> simp [Piece.same] at hp ⊢

/-- Settles O45: both timers count down by one, and the sound is read off the new `ST`. -/
theorem timersCountDownToZero : Obligations.TimersCountDownToZero := by
  refine fun s rest h => ⟨(s.popOp rest).tickTimers, step_of_cons h, toNat_countDown s.DT, toNat_countDown s.ST, ?_, rfl,
    (State.tickTimers_Frame _).of_popOp⟩
  rw [State.shouldPlaySound_iff, State.tickTimers_ST, toNat_countDown]
  exact Nat.sub_pos_iff_lt

/-- One step of a run, where it answers. -/
theorem run_succ {n : Nat} (h : step s = .next t) : core.run (n + 1) s = core.run n t := by
  simp only [Host.Core.run, core, h]

/-- Settles O46: by induction on the number of calls. -/
theorem repeatedTimerTicksFloorAtZero : Obligations.RepeatedTimerTicksFloorAtZero := by
  intro n
  induction n with
  | zero => exact fun s rest h => ⟨s, rfl, rfl, rfl, h, Frame.refl s _⟩
  | succ n ih =>
    intro s rest h
    obtain ⟨t, ht, hDT, hST, -, hsched, hframe⟩ := timersCountDownToZero s _ h
    obtain ⟨u, hu, hDT', hST', hsched', hframe'⟩ := ih t rest hsched
    exact ⟨u, (run_succ ht).trans hu, by omega, by omega, hsched', hframe.trans hframe'⟩

/-! ### `set_key_state` -/

theorem State.setKeyState_Frame (s : State) (k : Nibble) (l : KeyLevel) :
    Frame s (s.setKeyState k l) [.key, .released] := by
  intro p hp; cases p <;> simp [Piece.same] at hp ⊢

theorem State.setKeyState_keyLevel (s : State) (k j : Nibble) (l : KeyLevel) :
    (s.setKeyState k l).keyLevel j = if j = k then l else s.keyLevel j := by
  simp only [State.keyLevel, State.setKeyState_key, Vector.getElem_set, Fin.ext_iff, eq_comm]

/-- Settles O47: one write of the key levels, and one of the release record. -/
theorem keyReleaseIsRecorded : Obligations.KeyReleaseIsRecorded := fun s k level rest h =>
  ⟨(s.popOp rest).setKeyState k level, step_of_cons h, (State.setKeyState_keyLevel _ k k level).trans (if_pos rfl),
    fun j hj => (State.setKeyState_keyLevel _ k j level).trans (if_neg hj), rfl, rfl,
    (State.setKeyState_Frame _ k level).of_popOp⟩

/-! ### The key wait -/

/-- The machine runs and its next instruction is `LD Vx,K`. -/
def ParkedOnKeyWait (x : Nibble) (s : State) : Prop :=
  s.fault = none ∧ s.pc.toNat ≤ 0xFFE ∧ decodeWord (s.wordAt s.pc.toNat) = .ok (.ldVxK x)

/-- Keys, releases and the schedule do not move the machine from its instruction. -/
theorem ParkedOnKeyWait.of_Frame {x : Nibble} (h : ParkedOnKeyWait x s) (hframe : Frame s t [.key, .released, .schedule]) :
    ParkedOnKeyWait x t := by
  have hfault : t.fault = s.fault := hframe .fault (by decide)
  have hpc : t.pc = s.pc := hframe .pc (by decide)
  have hmem : ∀ a, t.byteAt a = s.byteAt a := hframe .mem (by decide)
  simpa only [ParkedOnKeyWait, State.wordAt, hfault, hpc, hmem] using h

/-- A tick on `LD Vx,K` with no release recorded comes back to it. -/
theorem tick_ldVxK_waits {x : Nibble} (h : ParkedOnKeyWait x s) (hrel : s.released = []) :
    ∃ t, tick r s = .next t ∧ t.pc = s.pc ∧ t.released = [] ∧ ∀ j, t.reg j = s.reg j := by
  obtain ⟨hf, hpc, hi⟩ := h
  refine ⟨((s.beginTick r).setPc (s.pc + 2 - 2)).endTick, ?_, BitVec.add_sub_cancel s.pc 2, ?_, fun j => rfl⟩
  · rw [tick_decoded hf hpc hi, exec_ldVxK_of_none (s := s.beginTick r) hrel]; rfl
  · exact State.endTick_released_of_none hf

/-- A tick on `LD Vx,K` with a release recorded goes past it. -/
theorem tick_ldVxK_completes {x k : Nibble} {ks : List Nibble} (h : ParkedOnKeyWait x s) (hrel : s.released = k :: ks) :
    ∃ t, tick r s = .next t ∧ t.pc = s.pc + 2 ∧ (t.reg x).toNat = k.val ∧ t.released = [] := by
  obtain ⟨hf, hpc, hi⟩ := h
  refine ⟨((s.beginTick r).setReg x (BitVec.ofNat 8 k.val)).endTick, ?_, rfl, ?_, ?_⟩
  · rw [tick_decoded hf hpc hi, exec_ldVxK_of_release (s := s.beginTick r) hrel]; rfl
  · rw [State.endTick_reg, State.reg_setReg_same, toNat_byte_ofNibble]
  · exact State.endTick_released_of_none hf

/-- The state after a press and a release of `k`, with the schedule `rest` left. -/
def State.pressAndRelease (s : State) (k : Nibble) (rest : List HostOp) : State :=
  ((s.setKeyState k .down).setKeyState k .up).popOp rest

theorem State.pressAndRelease_Frame (s : State) (k : Nibble) (rest : List HostOp) :
    Frame s (s.pressAndRelease k rest) [.key, .released, .schedule] :=
  ((s.setKeyState_Frame k .down).mono (by simp)).trans
    (((State.setKeyState_Frame _ k .up).mono (by simp)).trans ((State.popOp_Frame _ rest).mono (by simp)))

/-- A press and a release of a key that was up record it. -/
theorem State.pressAndRelease_released (s : State) (k : Nibble) (rest : List HostOp) (h : s.keyLevel k = .up) :
    (s.pressAndRelease k rest).released = s.released ++ [k] := by
  have hdown : (s.setKeyState k .down).keyLevel k = .down := (s.setKeyState_keyLevel k k .down).trans (if_pos rfl)
  show ((s.setKeyState k .down).setKeyState k .up).released = _
  rw [State.setKeyState_released, if_pos ⟨hdown, rfl⟩, State.setKeyState_released, if_neg (by simp [h])]

/-- Two steps of a run over a press and a release. -/
theorem run_pressAndRelease {k : Nibble} {n : Nat}
    (h : s.schedule = .setKeyState k .down :: .setKeyState k .up :: rest) :
    core.run (n + 2) s = core.run n (s.pressAndRelease k rest) := by
  have hdown : step s = .next ((s.popOp (.setKeyState k .up :: rest)).setKeyState k .down) := step_of_cons h
  have hup : step ((s.popOp (.setKeyState k .up :: rest)).setKeyState k .down) = .next (s.pressAndRelease k rest) :=
    step_of_cons (op := .setKeyState k .up) (rest := rest) rfl
  rw [run_succ (n := n + 1) hdown, run_succ hup]

/-- Settles O48: without a release the wait comes back to itself; the press and release record the key it then takes. -/
theorem pressAndReleaseCompletesKeyWait : Obligations.PressAndReleaseCompletesKeyWait := by
  intro s x k r rest hf hpc hi hrel hup
  have hparked : ParkedOnKeyWait x s := ⟨hf, hpc, hi⟩
  refine ⟨fun h => ?_, fun h => ?_⟩
  · have hparked' : ParkedOnKeyWait x (s.popOp rest) := hparked.of_Frame ((s.popOp_Frame rest).mono (by simp))
    obtain ⟨t, ht, hend⟩ := tick_ldVxK_waits (r := r) hparked' hrel
    exact ⟨t, run_succ ((step_of_cons h).trans ht), hend⟩
  · have hparked' : ParkedOnKeyWait x (s.pressAndRelease k rest) := hparked.of_Frame (s.pressAndRelease_Frame k rest)
    obtain ⟨t, ht, hend⟩ := tick_ldVxK_completes (r := r) hparked'
      ((s.pressAndRelease_released k rest hup).trans (by rw [hrel, List.nil_append]))
    refine ⟨t, ?_, hend⟩
    rw [run_pressAndRelease h]
    exact run_succ ((step_of_cons (op := .tick r) (rest := rest) rfl).trans ht)

/-! ### `load_rom` -/

theorem State.loadRom_of_length_gt {image : List Byte} (h : maxRomLen < image.length) :
    s.loadRom image = { s with loadResult := some .oversizedRom } :=
  if_pos h

theorem State.loadResult_Frame (s : State) (l : Option LoadResult) : Frame s { s with loadResult := l } [.loadResult] := by
  intro p hp
  cases p with
  | loadResult => simp at hp
  | mem => exact fun _ => rfl
  | _ => rfl

theorem State.loadRom_schedule (s : State) (image : List Byte) : (s.loadRom image).schedule = s.schedule := by
  unfold State.loadRom; split_ifs <;> rfl

theorem State.loadRom_cfg (s : State) (image : List Byte) : (s.loadRom image).cfg = s.cfg := by
  unfold State.loadRom; split_ifs <;> rfl

/-- Settles O49: the length alone decides between the copy and the refusal. -/
theorem romIsCopiedOrRefused : Obligations.RomIsCopiedOrRefused := by
  intro s image rest h
  refine ⟨(s.popOp rest).loadRom image, step_of_cons h, State.loadRom_schedule _ image, fun hlen => ?_, fun hlen => ?_⟩
  · refine ⟨by rw [State.loadRom_of_length_le hlen], fun k hk => State.loadRom_byteAt hlen hk, ?_, ?_⟩
    · rw [State.loadRom_of_length_le hlen]
      exact (s.popOp rest).setBytes_MemoryOutside progBase image
    · rw [State.loadRom_of_length_le hlen]
      exact (((State.setBytes_Frame _ _ _).mono (by simp)).trans ((State.loadResult_Frame _ _).mono (by simp)) :
        Frame (s.popOp rest) _ [.mem, .loadResult]).of_popOp
  · rw [State.loadRom_of_length_gt hlen]
    exact ⟨rfl, (State.loadResult_Frame _ _).of_popOp⟩

/-! ### `reset` -/

/-- Memory after `reset` holds the font and zeros. -/
theorem State.resetAll_byteAt (s : State) (a : Nat) : s.resetAll.byteAt a = resetByte s.cfg a := rfl

theorem resetByte_font (c : Config) (k : Fin 80) : resetByte c (c.fontBase.val + k.val) = c.fontData[k.val] := by
  rw [resetByte, dif_pos (by omega)]
  simp only [Nat.add_sub_cancel_left]

theorem resetByte_of_outside (c : Config) {a : Nat} (h : a < c.fontBase.val ∨ c.fontBase.val + 80 ≤ a) :
    resetByte c a = 0 := dif_neg (by omega)

theorem resetAll_reg (s : State) (x : Nibble) : s.resetAll.reg x = 0 := Vector.getElem_replicate x.isLt

theorem resetAll_keyLevel (s : State) (k : Nibble) : s.resetAll.keyLevel k = .up := Vector.getElem_replicate k.isLt

/-- Settles O51: every field has its reset value, read off through the accessors. -/
theorem resetRestoresEveryValue : Obligations.ResetRestoresEveryValue := by
  intro s rest h
  refine ⟨(s.popOp rest).resetAll, step_of_cons h, rfl, resetAll_keyLevel _, fun k => ?_, fun a ha => ?_,
    resetAll_reg _, rfl, fun k => reset_frame, rfl, rfl, rfl, pixel_blankScreen, rfl, rfl, rfl, rfl⟩
  · rw [State.resetAll_byteAt]; exact resetByte_font s.cfg k
  · rw [State.resetAll_byteAt]; exact resetByte_of_outside s.cfg ha

/-! ### Every step -/

theorem tick_cfg_schedule (h : tick r s = .next t) : t.cfg = s.cfg ∧ t.schedule = s.schedule :=
  ⟨tick_same (p := .cfg) h (by decide) fun i _ => by cases i <;> rfl,
    tick_same (p := .schedule) h (by decide) fun i _ => by cases i <;> rfl⟩

theorem perform_cfg_schedule {op : HostOp} (h : perform op s = .next t) : t.cfg = s.cfg ∧ t.schedule = s.schedule := by
  cases op with
  | tick b => exact tick_cfg_schedule h
  | loadRom image => cases h; exact ⟨s.loadRom_cfg image, s.loadRom_schedule image⟩
  | _ => cases h; exact ⟨rfl, rfl⟩

/-- Settles O55: no operation writes the configuration or the schedule, from which the step has taken the head. -/
theorem stepsKeepConfigAndConsumeSchedule : Obligations.StepsKeepConfigAndConsumeSchedule := by
  intro s t ht
  rcases step_eq s with ⟨op, rest, hs, he⟩ | ⟨hs, he⟩ <;> rw [he] at ht <;> rw [hs]
  · exact perform_cfg_schedule ht
  · obtain ⟨hcfg, hsched⟩ := tick_cfg_schedule ht
    exact ⟨hcfg, hsched.trans hs⟩

end Sys2Proof.Machine
end
